-- ==== Sys2Proof/Word.lean ====
section
/-! DEFINITION. The word types of the block and their plainest arithmetic (00_scope.md R10 to R12, 20_memory.md R80). -/

namespace Sys2Proof

/-- `u8` (R11): a MIDI byte, a bus byte, a cached input volume. -/
abbrev Byte := BitVec 8

/-- `u32` and `i32` (R11): a wire word, a sample, a command word, a payload word. -/
abbrev Word := BitVec 32

/-- The bit pattern of an `f32`, IEEE 754 binary32 (R11, D10). -/
abbrev F32 := BitVec 32

/-- A codec register address, 0 to 127 (42_codec_sequencer.md R200). -/
abbrev RegAddr := BitVec 7

/-- A codec register value, 0 to 511 (42_codec_sequencer.md R200). -/
abbrev RegVal := BitVec 9

/-- `sext_24` (R12). -/
def sext24 (v : BitVec 24) : Word := v.signExtend 32

/-- `zext_24` (R12). -/
def zext24 (v : BitVec 24) : Word := v.setWidth 32

end Sys2Proof
end

