-- ==== Sys2Proof/Syntax.lean ====
section
/-! DEFINITION. The commands of the block: one constructor of `Instr` per row of spec/opcode_table.json
(30_encoding.md R96), the enumerated field values (R93 to R95), the operand payloads (R98) and the pseudo-commands (R101). -/

namespace Sys2Proof

/-- `control ∈ {Mute, Volume, ALC}` (30_encoding.md R93). -/
inductive Control where
  | mute
  | volume
  | alc
  deriving DecidableEq, Repr

/-- The six jacks (30_encoding.md R94). -/
inductive Jack where
  | speaker
  | headphone
  | lineOut
  | microphone
  | defaultIn
  | defaultOut
  deriving DecidableEq, Repr

/-- `channel ∈ {Left, Right, All}` (30_encoding.md R95). -/
inductive Channel where
  | left
  | right
  | all
  deriving DecidableEq, Repr

/-- The commands accepted on the command port, with the fields of their command word (30_encoding.md R92, R96).
The operand payload is not part of the word: it stands in `State.operand` while the command runs. -/
inductive Instr where
  | cvtDecLj
  | cvtDecLo24
  | cvtEncLj
  | cvtEncLo24
  | cvtTof
  | cvtFromf
  | cvtDeint
  | cvtInt
  | pipeRecv
  | pipeReq
  | codecProbe
  | codecEnjack (jack : Jack)
  | codecDisjack (jack : Jack)
  | codecInfo (control : Control) (jack : Jack) (channel : Channel)
  | codecSet (control : Control) (jack : Jack) (channel : Channel)
  | midiByte (b : Byte)
  | midiPacket (p0 p1 p2 : Byte)
  | midiPoll
  deriving DecidableEq, Repr

/-- An operand payload, by its shape (30_encoding.md R98). Words carry `u32`, `i32` and `f32` alike.
DESIGN CHOICE, safe (log 3): the shape is part of the payload, so two channels of lengths 3 and 1 differ from two of length 2. -/
inductive Payload where
  /-- No operand. -/
  | empty
  /-- One 32-bit operand: `w : u32`, `s : i32`, `x : f32`, `value : i32`, or PIPE.REQ's `len : u32`. -/
  | word (w : Word)
  /-- `block : u32[k]`. -/
  | block (ws : List Word)
  /-- `inL : f32[k], inR : f32[k']`. -/
  | channels (inL inR : List F32)
  /-- `len : u32, block : u32[k]`. -/
  | lenBlock (len : Word) (ws : List Word)
  deriving DecidableEq, Repr

/-- A command: a 32-bit command word and its operand payload (30_encoding.md R90). -/
structure Command where
  cw : Word
  payload : Payload
  deriving DecidableEq, Repr

/-- The pseudo-commands of the assembler (30_encoding.md R101). -/
inductive Pseudo where
  | midiFeed (bs : List Byte)
  | codecMute (jack : Jack) (channel : Channel)
  | codecUnmute (jack : Jack) (channel : Channel)
  | codecVol (jack : Jack) (channel : Channel) (dB : Word)
  | codecAlc (on : Word)
  deriving DecidableEq, Repr

end Sys2Proof
end

