-- ==== Sys2Proof/Config.lean ====
section
/-! DEFINITION. What is fixed for one block: the configuration record (00_scope.md R8), the OPEN parameters of the spec
(42_codec_sequencer.md R203), the constants the spec fixes, and the free values that no proof can see. -/

namespace Sys2Proof

/-- Slot A or slot B of a direction (41_arbiter.md R153). -/
inductive Slot where
  | A
  | B
  deriving DecidableEq, Repr

/-- The eight index spaces of the block's storage (20_memory.md R70). -/
inductive BufId where
  | inSlot (k : Slot)
  | outSlot (k : Slot)
  | dspInL
  | dspInR
  | dspOutL
  | dspOutR
  deriving DecidableEq, Repr

/-- Channel index `c ∈ {0 = Left, 1 = Right}` (10_state.md R41). -/
inductive Side where
  | left
  | right
  deriving DecidableEq, Repr

/-- The output jacks (42_codec_sequencer.md R204). -/
inductive OutJack where
  | speaker
  | headphone
  | lineOut
  | defaultOut
  deriving DecidableEq, Repr

/-- One codec register write `(address, value)` (42_codec_sequencer.md R200, R210). -/
structure RegWrite where
  addr : RegAddr
  val : RegVal
  deriving DecidableEq, Repr

/-- A value for each channel. -/
structure PerSide (α : Type) where
  left : α
  right : α
  deriving DecidableEq, Repr

/-- `OUT_VOL_REG(j, c)`: a register address per output jack and channel (42_codec_sequencer.md R203). -/
structure OutVolRegs where
  speaker : PerSide RegAddr
  headphone : PerSide RegAddr
  lineOut : PerSide RegAddr
  defaultOut : PerSide RegAddr
  deriving DecidableEq, Repr

/-- A table of writes per flag pair `(hi, ho)` (42_codec_sequencer.md R203).
`neither` belongs to the pair that R33 refuses (log 26). -/
structure FlagTable where
  both : List RegWrite
  inOnly : List RegWrite
  outOnly : List RegWrite
  neither : List RegWrite
  deriving DecidableEq, Repr

/-- The five values of the 44.1 kHz table, for registers 4, 52, 53, 54, 55 (42_codec_sequencer.md R215). -/
structure PllValues where
  clock : RegVal
  intN : RegVal
  kHigh : RegVal
  kMid : RegVal
  kLow : RegVal
  deriving DecidableEq, Repr

/-- A call of the DSP's event sink `Sink(count, ts, type, ch, d1, d2)` (00_scope.md R13, 43_midi.md R253). -/
structure SinkCall where
  count : Nat
  ts : Nat
  type : Byte
  ch : Byte
  d1 : Byte
  d2 : Byte
  deriving DecidableEq, Repr

/-- What the external DSP is given before the first command (70_reset_and_hazards.md R345 step 2): it is constructed with
`(sampleRate, framesPerBlock, numInputs, numOutputs)`, and `setChannelBuffers(outL, outR, inL, inR)` binds its buffers. -/
structure DspSetup where
  sampleRate : Nat
  framesPerBlock : Nat
  numInputs : Nat
  numOutputs : Nat
  outL : BufId
  outR : BufId
  inL : BufId
  inR : BufId
  deriving DecidableEq, Repr

/-- The 24-bit conventions (00_scope.md R16). -/
inductive WireConv where
  | lj
  | lo24
  deriving DecidableEq, Repr

/-- The configuration record (00_scope.md R8), read-only state of the block (10_state.md R33). -/
structure Config where
  /-- `N`, words per WireBlock. -/
  n : Nat
  /-- `SAMPLE_RATE` in Hz. -/
  sampleRate : Nat
  /-- `HAS_INPUT`. -/
  hasInput : Bool
  /-- `HAS_OUTPUT`. -/
  hasOutput : Bool
  /-- `DSP_BOUND`. -/
  dspBound : Bool
  /-- `BUS_ADDR`, OPEN (D25). -/
  busAddr : BitVec 7
  /-- `MIDI_POLL_MAX`, OPEN (D24). -/
  midiPollMax : Nat
  /-- `PWR_TABLE(hi, ho)`, OPEN (D26). -/
  pwrTable : FlagTable
  /-- `MIX_TABLE(hi, ho)`, OPEN (D26). -/
  mixTable : FlagTable
  /-- `PLL44`, OPEN (D45). -/
  pll44 : PllValues
  /-- `CTRL_TABLE`, OPEN (D26). -/
  ctrlTable : List RegWrite
  /-- `NG_TABLE`, OPEN (D26). -/
  ngTable : List RegWrite
  /-- `OUT_VOL_REG(j, c)`, OPEN (D26). -/
  outVol : OutVolRegs
  /-- `SPK_BOOST`, OPEN (D26). -/
  spkBoost : RegWrite
  /-- `REG_INVOL(c)`, OPEN (D26). -/
  involReg : PerSide RegAddr
  /-- `ROUTE_TABLE`, OPEN (D26). -/
  routeTable : List RegWrite
  /-- `CLASSD_REG`, OPEN (D47). -/
  classdReg : RegAddr
  /-- `CLASSD_ON`, OPEN (D47). -/
  classdOn : RegVal
  /-- `CLASSD_OFF`, OPEN (D47). -/
  classdOff : RegVal
  /-- `ALC_ON_TABLE`, OPEN (D35). -/
  alcOnTable : List RegWrite
  /-- `ALC_OFF_TABLE`, OPEN (D35). -/
  alcOffTable : List RegWrite
  deriving DecidableEq, Repr

/-- `F = N/2` (R8). -/
def Config.frames (c : Config) : Nat := c.n / 2

/-- The setup of the DSP that a block with this configuration is constructed beside (00_scope.md R9, D57,
70_reset_and_hazards.md R345 step 2); none where no DSP is bound (log 28). -/
def Config.dspSetup (c : Config) : Option DspSetup :=
  if c.dspBound then
    some
      { sampleRate := c.sampleRate
        framesPerBlock := c.frames
        numInputs := 2
        numOutputs := 2
        outL := .dspOutL
        outR := .dspOutR
        inL := .dspInL
        inR := .dspInR }
  else none

/-- `FS = 2^23`, the full-scale constant (R8, D6). -/
def Config.fs : Nat := 8388608

/-- `CLAMP_HI`, the binary32 nearest to 0.999999 (R8, 40_converter.md R119, C1). -/
def Config.clampHi : F32 := 0x3F7FFFEF

/-- `CLAMP_LO`, -1.0 (R8). -/
def Config.clampLo : F32 := 0xBF800000

/-- `WIRE_CONV = LJ` (R8, 40_converter.md R118, D5). -/
def Config.wireConv : WireConv := .lj

/-- `INVOL_RESET` (R8, D29). -/
def Config.involReset : Byte := 0x16

/-! ## OPEN parameters: constants without a value, so every claim about `Config.reference` holds of each value (log 7) -/

opaque Config.openSampleRate : Nat
opaque Config.openDspBound : Bool
opaque Config.openBusAddr : BitVec 7
/-- `MIDI_POLL_MAX` less 1 (D24: `MIDI_POLL_MAX ≥ 1`). -/
opaque Config.openMidiPollMaxLessOne : Nat
/-- `PWR_TABLE(hi, ho)`. -/
opaque Config.openPwrTable : Bool → Bool → List RegWrite
/-- `MIX_TABLE(hi, ho)`. -/
opaque Config.openMixTable : Bool → Bool → List RegWrite
/-- `PLL44[k]`. -/
opaque Config.openPll44 : Nat → RegVal
opaque Config.openCtrlTable : List RegWrite
opaque Config.openNgTable : List RegWrite
/-- `OUT_VOL_REG(j, c)`. -/
opaque Config.openOutVolReg : OutJack → Side → RegAddr
opaque Config.openSpkBoostReg : RegAddr
opaque Config.openSpkBoostVal : RegVal
/-- `REG_INVOL(c)`. -/
opaque Config.openInvolReg : Side → RegAddr
opaque Config.openRouteTable : List RegWrite
opaque Config.openClassdReg : RegAddr
opaque Config.openClassdOn : RegVal
opaque Config.openClassdOff : RegVal
opaque Config.openAlcOnTable : List RegWrite
opaque Config.openAlcOffTable : List RegWrite

/-- The configuration the model is reset with: the reference configuration of R9, `N = 256`, two input and two output
channels. DEDUCED, unsafe (log 6): both capability flags are true because R9 gives it inputs and outputs. -/
def Config.reference : Config where
  n := 256
  sampleRate := Config.openSampleRate
  hasInput := true
  hasOutput := true
  dspBound := Config.openDspBound
  busAddr := Config.openBusAddr
  midiPollMax := Config.openMidiPollMaxLessOne + 1
  pwrTable := ⟨Config.openPwrTable true true, Config.openPwrTable true false, Config.openPwrTable false true,
    Config.openPwrTable false false⟩
  mixTable := ⟨Config.openMixTable true true, Config.openMixTable true false, Config.openMixTable false true,
    Config.openMixTable false false⟩
  pll44 := ⟨Config.openPll44 0, Config.openPll44 1, Config.openPll44 2, Config.openPll44 3, Config.openPll44 4⟩
  ctrlTable := Config.openCtrlTable
  ngTable := Config.openNgTable
  outVol :=
    { speaker := ⟨Config.openOutVolReg .speaker .left, Config.openOutVolReg .speaker .right⟩
      headphone := ⟨Config.openOutVolReg .headphone .left, Config.openOutVolReg .headphone .right⟩
      lineOut := ⟨Config.openOutVolReg .lineOut .left, Config.openOutVolReg .lineOut .right⟩
      defaultOut := ⟨Config.openOutVolReg .defaultOut .left, Config.openOutVolReg .defaultOut .right⟩ }
  spkBoost := ⟨Config.openSpkBoostReg, Config.openSpkBoostVal⟩
  involReg := ⟨Config.openInvolReg .left, Config.openInvolReg .right⟩
  routeTable := Config.openRouteTable
  classdReg := Config.openClassdReg
  classdOn := Config.openClassdOn
  classdOff := Config.openClassdOff
  alcOnTable := Config.openAlcOnTable
  alcOffTable := Config.openAlcOffTable

/-! ## Free values -/

/-- The draw of the `k`-th NaN that CVT.FROMF meets: any value in `[-8388608, 8388607]`, as its 24 bits
(40_converter.md R115, D9; log 11). -/
opaque Config.freeNan : Nat → BitVec 24

/-- What an element of a buffer holds from reset until it is first written (10_state.md R35 to R38, I4, I20; log 12). -/
opaque Config.freeContent : BufId → Nat → Word

/-- The `k`-th acknowledge count that no script lays down, in {0, 1, 2} (42_codec_sequencer.md R201, D54; log 8). -/
opaque Config.freeAck : Nat → Fin 3

/-- The bytes of the `k`-th source read that no script lays down; at most `MIDI_POLL_MAX` of them are returned
(43_midi.md R257, I15; log 9). -/
opaque Config.freeSrc : Nat → List Byte

/-- The internal state at reset of a DSP with this setup (10_state.md R40, R47; logs 10 and 28). -/
opaque Config.freeDspState : Option DspSetup → Nat

/-- The oracle `dsp` of 41_arbiter.md R157: its next internal state. -/
opaque Config.dspNext : Nat → List F32 → List F32 → Nat

/-- The oracle `dsp` of 41_arbiter.md R157: element `i` of its left output. -/
opaque Config.dspLeft : Nat → List F32 → List F32 → Nat → F32

/-- The oracle `dsp` of 41_arbiter.md R157: element `i` of its right output. -/
opaque Config.dspRight : Nat → List F32 → List F32 → Nat → F32

/-- The DSP's internal state after a `Sink` call (10_state.md R40). -/
opaque Config.dspSink : Nat → SinkCall → Nat

end Sys2Proof
end

