-- ==== Sys2Proof/WellFormed.lean ====
section
/-! DEFINITION. The checks on a command and on a configuration. The field values of an instruction are enumerations, so a
reserved field value (30_encoding.md R97(c)) is no term of `Instr`; what is left to check of a command is the shape of its
payload (R97(d), R98), and of a block its configuration (10_state.md R33). -/

namespace Sys2Proof

/-- A configuration that is a block (10_state.md R33): at least one capability flag, `N` even and not 0 (D28, D49). -/
def Config.legal (c : Config) : Bool :=
  (c.hasInput || c.hasOutput) && c.n % 2 == 0 && c.n != 0

/-- No operand. -/
def Payload.isEmpty : Payload → Bool
  | .empty => true
  | .word _ | .block _ | .channels _ _ | .lenBlock _ _ => false

/-- One 32-bit operand. -/
def Payload.isWord : Payload → Bool
  | .word _ => true
  | .empty | .block _ | .channels _ _ | .lenBlock _ _ => false

/-- `block : u32[k]` with `k` words. -/
def Payload.isBlock (k : Nat) : Payload → Bool
  | .block ws => ws.length == k
  | .empty | .word _ | .channels _ _ | .lenBlock _ _ => false

/-- Two channels of `k` floats each. -/
def Payload.isChannels (k : Nat) : Payload → Bool
  | .channels l r => l.length == k && r.length == k
  | .empty | .word _ | .block _ | .lenBlock _ _ => false

/-- `len : u32, block : u32[len]`. -/
def Payload.isLenBlock : Payload → Bool
  | .lenBlock len ws => ws.length == len.toNat
  | .empty | .word _ | .block _ | .channels _ _ => false

/-- The payload has the shape 30_encoding.md R98 gives for the opcode. -/
def Instr.wellFormed (c : Config) (i : Instr) (p : Payload) : Bool :=
  match i with
  | .cvtDecLj => p.isWord
  | .cvtDecLo24 => p.isWord
  | .cvtEncLj => p.isWord
  | .cvtEncLo24 => p.isWord
  | .cvtTof => p.isWord
  | .cvtFromf => p.isWord
  | .cvtDeint => p.isBlock c.n
  | .cvtInt => p.isChannels c.frames
  | .pipeRecv => p.isLenBlock
  | .pipeReq => p.isWord
  | .codecProbe => p.isEmpty
  | .codecEnjack _ => p.isEmpty
  | .codecDisjack _ => p.isEmpty
  | .codecInfo _ _ _ => p.isEmpty
  | .codecSet _ _ _ => p.isWord
  | .midiByte _ => p.isEmpty
  | .midiPacket _ _ _ => p.isEmpty
  | .midiPoll => p.isEmpty

end Sys2Proof
end

