-- ==== Sys2Proof/Decode.lean ====
section
/-! DEFINITION. The command encoding (30_encoding.md): formats and fields (R92 to R95), the opcode map (R96), the decoder,
total on every word (R99) and rejecting by name (R97), the encoder, the byte view of a word (20_memory.md R76) and the
pseudo-commands (R101). -/

namespace Sys2Proof

/-- The five formats (R92). -/
inductive Format where
  | N
  | J
  | K
  | B
  | P
  deriving DecidableEq, Repr

/-- The opcodes of R96, by mnemonic. -/
inductive Opcode where
  | cvtDecLj
  | cvtDecLo24
  | cvtEncLj
  | cvtEncLo24
  | cvtTof
  | cvtFromf
  | cvtDeint
  | cvtInt
  | pipeRecv
  | pipeReq
  | codecProbe
  | codecEnjack
  | codecDisjack
  | codecInfo
  | codecSet
  | midiByte
  | midiPacket
  | midiPoll
  deriving DecidableEq, Repr

/-- Why a command word is illegal (R97(a) to (c)), in the order R99 tests. -/
inductive DecodeError where
  /-- The opcode is not in R96. -/
  | reservedOpcode
  /-- A reserved bit of the format is not zero. -/
  | reservedBits
  /-- The jack field is 6 or 7. -/
  | reservedJack
  /-- The control field is 3. -/
  | reservedControl
  /-- The channel field is 3. -/
  | reservedChannel
  /-- The bytes are not exactly the four of one command word (R91). -/
  | wordLength
  deriving DecidableEq, Repr

/-- The opcode map, first column of R96. -/
def Opcode.code (o : Opcode) : Byte :=
  match o with
  | .cvtDecLj => 0x01
  | .cvtDecLo24 => 0x02
  | .cvtEncLj => 0x03
  | .cvtEncLo24 => 0x04
  | .cvtTof => 0x05
  | .cvtFromf => 0x06
  | .cvtDeint => 0x07
  | .cvtInt => 0x08
  | .pipeRecv => 0x10
  | .pipeReq => 0x11
  | .codecProbe => 0x20
  | .codecEnjack => 0x21
  | .codecDisjack => 0x22
  | .codecInfo => 0x23
  | .codecSet => 0x24
  | .midiByte => 0x30
  | .midiPacket => 0x31
  | .midiPoll => 0x32

/-- Every opcode, in the order of R96. -/
def Opcode.all : List Opcode :=
  [.cvtDecLj, .cvtDecLo24, .cvtEncLj, .cvtEncLo24, .cvtTof, .cvtFromf, .cvtDeint, .cvtInt, .pipeRecv, .pipeReq,
    .codecProbe, .codecEnjack, .codecDisjack, .codecInfo, .codecSet, .midiByte, .midiPacket, .midiPoll]

/-- The opcode of R96 with this number, none where the number is reserved (R97(a)). -/
def Opcode.ofCode (b : Byte) : Option Opcode := Opcode.all.find? fun o => o.code == b

/-- The format column of R96. -/
def Opcode.format (o : Opcode) : Format :=
  match o with
  | .cvtDecLj | .cvtDecLo24 | .cvtEncLj | .cvtEncLo24 | .cvtTof | .cvtFromf | .cvtDeint | .cvtInt => .N
  | .pipeRecv | .pipeReq | .codecProbe | .midiPoll => .N
  | .codecEnjack | .codecDisjack => .J
  | .codecInfo | .codecSet => .K
  | .midiByte => .B
  | .midiPacket => .P

/-- `fieldmask` (R99). -/
def Format.fieldMask (f : Format) : BitVec 24 :=
  match f with
  | .N => 0x000000
  | .J => 0x000700
  | .K => 0x030703
  | .B => 0x0000FF
  | .P => 0xFFFFFF

/-- Numbers of the controls (R93). -/
def Control.code (c : Control) : BitVec 2 :=
  match c with
  | .mute => 0
  | .volume => 1
  | .alc => 2

/-- The control with this number; 3 is reserved (R93). -/
def Control.ofCode (c : BitVec 2) : Option Control :=
  if c = 0 then some .mute else if c = 1 then some .volume else if c = 2 then some .alc else none

/-- Numbers of the jacks (R94). -/
def Jack.code (j : Jack) : BitVec 3 :=
  match j with
  | .speaker => 0
  | .headphone => 1
  | .lineOut => 2
  | .microphone => 3
  | .defaultIn => 4
  | .defaultOut => 5

/-- The jack with this number; 6 and 7 are reserved (R94). -/
def Jack.ofCode (j : BitVec 3) : Option Jack :=
  if j = 0 then some .speaker else if j = 1 then some .headphone else if j = 2 then some .lineOut
  else if j = 3 then some .microphone else if j = 4 then some .defaultIn else if j = 5 then some .defaultOut else none

/-- Numbers of the channels (R95). -/
def Channel.code (h : Channel) : BitVec 2 :=
  match h with
  | .left => 0
  | .right => 1
  | .all => 2

/-- The channel with this number; 3 is reserved (R95). -/
def Channel.ofCode (h : BitVec 2) : Option Channel :=
  if h = 0 then some .left else if h = 1 then some .right else if h = 2 then some .all else none

/-- `cw[31:24]` (R91). -/
def opcodeField (cw : Word) : Byte := cw.extractLsb' 24 8
/-- `cw[23:0]` (R91). -/
def fieldsField (cw : Word) : BitVec 24 := cw.extractLsb' 0 24
/-- `control = cw[17:16]` (R92). -/
def controlField (cw : Word) : BitVec 2 := cw.extractLsb' 16 2
/-- `jack = cw[10:8]` (R92). -/
def jackField (cw : Word) : BitVec 3 := cw.extractLsb' 8 3
/-- `channel = cw[1:0]` (R92). -/
def channelField (cw : Word) : BitVec 2 := cw.extractLsb' 0 2
/-- `b = cw[7:0]` and `p2 = cw[7:0]` (R92). -/
def lowByteField (cw : Word) : Byte := cw.extractLsb' 0 8
/-- `p1 = cw[15:8]` (R92). -/
def midByteField (cw : Word) : Byte := cw.extractLsb' 8 8
/-- `p0 = cw[23:16]` (R92). -/
def highByteField (cw : Word) : Byte := cw.extractLsb' 16 8

/-- Format J: the jack field, refused where reserved (R99). -/
def decodeJ (cw : Word) (make : Jack → Instr) : Except DecodeError Instr :=
  match Jack.ofCode (jackField cw) with
  | some j => .ok (make j)
  | none => .error .reservedJack

/-- Format K: the jack, control and channel fields, tested in the order of R99. -/
def decodeK (cw : Word) (make : Control → Jack → Channel → Instr) : Except DecodeError Instr :=
  match Jack.ofCode (jackField cw) with
  | none => .error .reservedJack
  | some j =>
    match Control.ofCode (controlField cw) with
    | none => .error .reservedControl
    | some c =>
      match Channel.ofCode (channelField cw) with
      | none => .error .reservedChannel
      | some h => .ok (make c j h)

/-- The fields of a word whose opcode is known and whose reserved bits are zero (R92, R99). -/
def decodeFields (o : Opcode) (cw : Word) : Except DecodeError Instr :=
  match o with
  | .cvtDecLj => .ok .cvtDecLj
  | .cvtDecLo24 => .ok .cvtDecLo24
  | .cvtEncLj => .ok .cvtEncLj
  | .cvtEncLo24 => .ok .cvtEncLo24
  | .cvtTof => .ok .cvtTof
  | .cvtFromf => .ok .cvtFromf
  | .cvtDeint => .ok .cvtDeint
  | .cvtInt => .ok .cvtInt
  | .pipeRecv => .ok .pipeRecv
  | .pipeReq => .ok .pipeReq
  | .codecProbe => .ok .codecProbe
  | .codecEnjack => decodeJ cw .codecEnjack
  | .codecDisjack => decodeJ cw .codecDisjack
  | .codecInfo => decodeK cw .codecInfo
  | .codecSet => decodeK cw .codecSet
  | .midiByte => .ok (.midiByte (lowByteField cw))
  | .midiPacket => .ok (.midiPacket (highByteField cw) (midByteField cw) (lowByteField cw))
  | .midiPoll => .ok .midiPoll

/-- The decoder of R99, total on every 32-bit word. -/
def decode (cw : Word) : Except DecodeError Instr :=
  match Opcode.ofCode (opcodeField cw) with
  | none => .error .reservedOpcode
  | some o =>
    if fieldsField cw &&& ~~~o.format.fieldMask = 0 then decodeFields o cw else .error .reservedBits

/-- Byte `k` of a word is `w[8k+7:8k]`: little-endian (20_memory.md R76). -/
def wordBytes (w : Word) : List Byte :=
  [w.extractLsb' 0 8, w.extractLsb' 8 8, w.extractLsb' 16 8, w.extractLsb' 24 8]

/-- The word that four bytes in transfer order stand for (20_memory.md R76). -/
def bytesWord (b0 b1 b2 b3 : Byte) : Word := b3 ++ b2 ++ b1 ++ b0

/-- The decoder over bytes: exactly the four bytes of one command word (R91), in the order of 20_memory.md R76. -/
def decodeBytes (bs : List Byte) : Except DecodeError Instr :=
  match bs with
  | [b0, b1, b2, b3] => decode (bytesWord b0 b1 b2 b3)
  | _ => .error .wordLength

/-- The opcode of an instruction (R96). -/
def Instr.opcode (i : Instr) : Opcode :=
  match i with
  | .cvtDecLj => .cvtDecLj
  | .cvtDecLo24 => .cvtDecLo24
  | .cvtEncLj => .cvtEncLj
  | .cvtEncLo24 => .cvtEncLo24
  | .cvtTof => .cvtTof
  | .cvtFromf => .cvtFromf
  | .cvtDeint => .cvtDeint
  | .cvtInt => .cvtInt
  | .pipeRecv => .pipeRecv
  | .pipeReq => .pipeReq
  | .codecProbe => .codecProbe
  | .codecEnjack _ => .codecEnjack
  | .codecDisjack _ => .codecDisjack
  | .codecInfo _ _ _ => .codecInfo
  | .codecSet _ _ _ => .codecSet
  | .midiByte _ => .midiByte
  | .midiPacket _ _ _ => .midiPacket
  | .midiPoll => .midiPoll

/-- `cw[23:0]` of an instruction, written field by field from R92. -/
def Instr.fields (i : Instr) : BitVec 24 :=
  match i with
  | .cvtDecLj | .cvtDecLo24 | .cvtEncLj | .cvtEncLo24 | .cvtTof | .cvtFromf | .cvtDeint | .cvtInt => 0
  | .pipeRecv | .pipeReq | .codecProbe | .midiPoll => 0
  | .codecEnjack j | .codecDisjack j => (0#13 ++ j.code ++ 0#8 : BitVec 24)
  | .codecInfo c j h | .codecSet c j h => (0#6 ++ c.code ++ 0#5 ++ j.code ++ 0#6 ++ h.code : BitVec 24)
  | .midiByte b => (0#16 ++ b : BitVec 24)
  | .midiPacket p0 p1 p2 => (p0 ++ p1 ++ p2 : BitVec 24)

/-- The command word of an instruction (R91, R92, R96). -/
def encode (i : Instr) : Word := i.opcode.code ++ i.fields

/-- The `mask` column of spec/opcode_table.json: the opcode and the bits that are no field. -/
def Instr.mask (i : Instr) : Word := 0xFF#8 ++ ~~~i.opcode.format.fieldMask

/-- The `match` column of spec/opcode_table.json. -/
def Instr.matchWord (i : Instr) : Word := i.opcode.code ++ 0#24

/-- What the decoder reads from an instruction whose bits are `w`, numbered as spec/opcode_table.json numbers them; every
bit from `nbits` up is 0. -/
def decodeTableWord (nbits w : Nat) : Option Instr :=
  match decodeBytes (wordBytes (BitVec.ofNat 32 (w % 2 ^ nbits))) with
  | .ok i => some i
  | .error _ => none

/-- A command from an instruction and its payload (R90). -/
def Instr.command (i : Instr) (p : Payload) : Command := ⟨encode i, p⟩

/-- The expansion of a pseudo-command (R101). DESIGN CHOICE, safe (log 27): MIDI.FEED of no bytes expands to no command, and
CODEC.ALC of a word other than 0 and 1 to the CODEC.SET with that word; R101 gives neither form. -/
def Pseudo.expand (p : Pseudo) : List Command :=
  match p with
  | .midiFeed bs => bs.map fun b => (Instr.midiByte b).command .empty
  | .codecMute j h => [(Instr.codecSet .mute j h).command (.word 1)]
  | .codecUnmute j h => [(Instr.codecSet .mute j h).command (.word 0)]
  | .codecVol j h dB => [(Instr.codecSet .volume j h).command (.word dB)]
  | .codecAlc on => [(Instr.codecSet .alc .microphone .all).command (.word on)]

end Sys2Proof
end

