-- ==== Sys2Proof/Machine/State.lean ====
section
/-! DEFINITION. The state of the block (10_state.md), as plain data, its reset value (70_reset_and_hazards.md R340), and
the reasons a step can stop. -/

namespace Sys2Proof.Machine

/-- The kinds of model fault (60_exceptions.md R310). They are RECORDED in `State.faults` by the operation named, and the
command goes on as its rule says: no step of this model answers `.fault` (log 16). -/
inductive Fault where
  /-- `UNWRITTEN_READ` (R311), recorded by `State.noteReads`. Safe: a state that holds it is never a good end. -/
  | unwrittenRead
  /-- `ORDER_VIOLATION` (R312, R342), recorded by `State.checkOrder`. Safe: a state that holds it is never a good end. -/
  | orderViolation
  deriving DecidableEq, Repr

/-- Why an instruction or a step has no meaning. -/
inductive Refusal where
  /-- An instruction without a meaning yet, by its mnemonic; raised by no arm of `exec`. Safe. -/
  | notModelled (mnemonic : String)
  /-- The configuration is one that 10_state.md R33 refuses (60_exceptions.md R313); raised by `step`. Safe. -/
  | illegalConfiguration
  deriving DecidableEq, Repr

/-- Status codes (60_exceptions.md R300). -/
inductive Status where
  | ok
  | sizeMismatch
  | busWriteFailure
  | rangeViolation
  | unsupported
  | rateUnsupported
  | illegalCommand
  deriving DecidableEq, Repr

/-- Result payloads (30_encoding.md R98). -/
inductive ResultPayload where
  | empty
  /-- `s : i32`. -/
  | sample (s : Word)
  /-- `w : u32`. -/
  | word (w : Word)
  /-- `x : f32`. -/
  | float (x : F32)
  /-- `outL : f32[F], outR : f32[F]`. -/
  | channels (outL outR : List F32)
  /-- `block : u32[N]`. -/
  | block (ws : List Word)
  /-- `framesWritten : u32, block : u32[N]`; no block where the request failed (41_arbiter.md R154). -/
  | request (framesWritten : Word) (ws : Option (List Word))
  /-- `ok : bool`. -/
  | flag (ok : Bool)
  /-- `supported : bool, rangeMin : i32, rangeMax : i32`. -/
  | info (supported : Bool) (rangeMin rangeMax : Word)
  /-- `bytesRead : u32`. -/
  | bytesRead (n : Word)
  deriving DecidableEq, Repr

/-- A result: a status code and a result payload (30_encoding.md R90). -/
structure Response where
  status : Status
  payload : ResultPayload
  deriving DecidableEq, Repr

/-- `phase` (10_state.md R39). -/
inductive Phase where
  | awaitIn
  | awaitOut
  deriving DecidableEq, Repr

/-- The parser's states (10_state.md R43). -/
inductive MState where
  | awaitingStatus
  | awaitingData1
  | awaitingData2
  deriving DecidableEq, Repr

/-- The partial-message buffer (10_state.md R44). -/
structure MidiBuf where
  b0 : Byte
  b1 : Byte
  b2 : Byte
  deriving DecidableEq, Repr

/-- The sequencer's position in the bring-up table (10_state.md R31). -/
inductive SeqPos where
  | idle
  /-- Issuing the write with this index. -/
  | writing (k : Nat)
  deriving DecidableEq, Repr

/-- The set `faults` (10_state.md R46). -/
structure FaultSet where
  unwrittenRead : Bool
  orderViolation : Bool
  deriving DecidableEq, Repr

/-- The direction of a size mismatch (60_exceptions.md R301). -/
inductive Dir where
  | IN
  | OUT
  deriving DecidableEq, Repr

/-- An external call of the history (70_reset_and_hazards.md R355), in order, with what the agent answered where it
answers (log 5). -/
inductive Event where
  /-- `BusWrite(b0, b1) -> acked` to device `dev`. -/
  | busWrite (dev : BitVec 7) (b0 b1 : Byte) (acked : Fin 3)
  /-- A call of the DSP's event sink. -/
  | sink (c : SinkCall)
  /-- `DspProcess()`. -/
  | dspProcess
  /-- `Log(SizeMismatch(dir, len))`. -/
  | sizeMismatch (dir : Dir) (len : Word)
  /-- The observation aid of 60_exceptions.md R307: a status byte broke a message. No rule reads it. -/
  | desync (b : Byte)
  deriving DecidableEq, Repr

/-- One index space of 20_memory.md R70: the written elements, as (index, word) with rising indexes. An element has its
written mark (10_state.md R38) exactly when it is listed. -/
abbrev Buffer := List (Nat × Word)

/-- The block's storage (20_memory.md R70). -/
structure Buffers where
  inSlotA : Buffer
  inSlotB : Buffer
  outSlotA : Buffer
  outSlotB : Buffer
  dspInL : Buffer
  dspInR : Buffer
  dspOutL : Buffer
  dspOutR : Buffer
  deriving DecidableEq, Repr

/-- The external bus (42_codec_sequencer.md R201): the acknowledge counts laid down for it, and how many have been drawn
beyond them (log 8). -/
structure BusAgent where
  script : List (Fin 3)
  drawn : Nat
  deriving DecidableEq, Repr

/-- The external MIDI byte source (43_midi.md R257): the answers laid down for it, and how many have been drawn beyond
them (log 9). -/
structure SrcAgent where
  script : List (List Byte)
  drawn : Nat
  deriving DecidableEq, Repr

/-- Output elements laid down for one `process()` of the DSP (log 10). -/
structure DspAnswer where
  outL : List F32
  outR : List F32
  deriving DecidableEq, Repr

/-- `dspState` (10_state.md R40): an opaque internal state, the setup the DSP was constructed and bound with
(70_reset_and_hazards.md R345; log 28), and the outputs laid down for the coming calls (log 10). -/
structure DspState where
  code : Nat
  setup : Option DspSetup
  script : List DspAnswer
  deriving DecidableEq, Repr

/-- The state of the block. -/
structure State where
  /-- The configuration record, read-only (10_state.md R33). -/
  cfg : Config
  /-- The command port: commands issued and not yet taken, in their total order (20_memory.md R83; log 1). -/
  pending : List Command
  /-- The command port: the operand payload of the command being run (10_state.md R30; log 3). -/
  operand : Payload
  /-- The result port: what the last command returned (30_encoding.md R90; log 4). -/
  result : Option Response
  /-- The slot selector (10_state.md R34). -/
  activeIsA : Bool
  /-- Slots and float buffers, with their written marks (10_state.md R35 to R38). -/
  bufs : Buffers
  /-- Model-only order tracker (10_state.md R39). -/
  phase : Phase
  /-- The DSP's state (10_state.md R40). -/
  dspState : DspState
  /-- The cache of the input PGA volumes (10_state.md R41). -/
  inputVolume : PerSide Byte
  /-- The sequencer's position (10_state.md R31). -/
  seq : SeqPos
  /-- The parser's state (10_state.md R43). -/
  mstate : MState
  /-- The parser's partial message (10_state.md R44). -/
  mbuf : MidiBuf
  /-- Model-only fault record (10_state.md R46). -/
  faults : FaultSet
  /-- External calls, in order (70_reset_and_hazards.md R355; log 5). -/
  history : List Event
  /-- The external bus. -/
  bus : BusAgent
  /-- The external byte source. -/
  src : SrcAgent
  /-- How many NaN draws have been taken (40_converter.md R115; log 11). -/
  nanDraws : Nat
  deriving DecidableEq, Repr

/-- Construction of the block with configuration `c` (70_reset_and_hazards.md R340, 10_state.md R47).
DESIGN CHOICE (logs 1 to 5, 8 to 13, 28): the values the spec does not give. -/
def State.resetWith (c : Config) : State where
  cfg := c
  pending := []
  operand := .empty
  result := none
  activeIsA := true
  bufs := ⟨[], [], [], [], [], [], [], []⟩
  phase := .awaitIn
  dspState := ⟨Config.freeDspState c.dspSetup, c.dspSetup, []⟩
  inputVolume := ⟨Config.involReset, Config.involReset⟩
  seq := .idle
  mstate := .awaitingStatus
  mbuf := ⟨0, 0, 0⟩
  faults := ⟨false, false⟩
  history := []
  bus := ⟨[], 0⟩
  src := ⟨[], 0⟩
  nanDraws := 0

/-- The block right after reset, in the reference configuration (00_scope.md R9; log 6). -/
def State.reset : State := State.resetWith Config.reference

end Sys2Proof.Machine
end

