-- ==== Sys2Proof/Machine/Operands.lean ====
section
/-! DEFINITION. Operand values: the 24-bit conventions and the binary32 conversions of the converter (40_converter.md), the
interleaving of a block (20_memory.md R75), the register codes and bus bytes of the sequencer (42_codec_sequencer.md), the
result words (30_encoding.md R98). All of it is pure. -/

namespace Sys2Proof.Machine

/-! ## The 24-bit conventions -/

/-- CVT.DEC.LJ: `sext_24(w[31:8])` (R110). -/
def decLj (w : Word) : Word := sext24 (w.extractLsb' 8 24)

/-- CVT.DEC.LO24 (R111). -/
def decLo24 (w : Word) : Word := if w.getLsbD 23 then w ||| 0xFF000000 else w &&& 0x00FFFFFF

/-- CVT.ENC.LJ: `zext_24(s[23:0]) << 8` (R112). -/
def encLj (s : Word) : Word := zext24 (s.extractLsb' 0 24) <<< 8

/-- CVT.ENC.LO24: `zext_24(s[23:0])` (R113). -/
def encLo24 (s : Word) : Word := zext24 (s.extractLsb' 0 24)

/-- The decoder of `WIRE_CONV` (R118). -/
def wireDecode (w : Word) : Word :=
  match Config.wireConv with
  | .lj => decLj w
  | .lo24 => decLo24 w

/-- The encoder of `WIRE_CONV` (R118). -/
def wireEncode (s : Word) : Word :=
  match Config.wireConv with
  | .lj => encLj s
  | .lo24 => encLo24 s

/-! ## Binary32 -/

/-- The sign bit (00_scope.md R11). -/
def f32Sign (x : F32) : Bool := x.getLsbD 31
/-- The 8 exponent bits. -/
def f32Exp (x : F32) : Nat := (x.extractLsb' 23 8).toNat
/-- The 23 fraction bits. -/
def f32Frac (x : F32) : Nat := (x.extractLsb' 0 23).toNat

/-- The exponent bits are all ones and the fraction is not zero. -/
def f32IsNan (x : F32) : Bool := f32Exp x == 255 && f32Frac x != 0

/-- The magnitude of a finite float in units of 2^-149, the least subnormal: exact for every finite `x`. An infinity gives
a value above every finite one, so the comparisons below order it as IEEE 754 does. -/
def f32Mag (x : F32) : Nat :=
  if f32Exp x = 0 then f32Frac x else (8388608 + f32Frac x) * 2 ^ (f32Exp x - 1)

/-- `real(x)` in units of 2^-149 (00_scope.md R11). -/
def f32Units (x : F32) : Int := if f32Sign x then -(f32Mag x : Int) else f32Mag x

/-- The IEEE 754 ordered comparison `x < y`: false with a NaN on either side (00_scope.md R12). -/
def f32Lt (x y : F32) : Bool := !f32IsNan x && !f32IsNan y && decide (f32Units x < f32Units y)

/-- `m / 2^k` rounded to the nearest integer, ties to even. -/
def shiftRne (m k : Nat) : Nat :=
  let q := m >>> k
  let r := m % 2 ^ k
  if 2 ^ k < 2 * r || (2 * r == 2 ^ k && q % 2 == 1) then q + 1 else q

/-- The 24-bit significand of `m ≥ 1`, rounded to nearest, ties to even; `2^24` where rounding carries out. -/
def significand (m : Nat) : Nat :=
  if m.log2 ≤ 23 then m <<< (23 - m.log2) else shiftRne m (m.log2 - 23)

/-- `f32_rne(s)`: the binary32 nearest to an integer with `|s| < 2^127`, ties to even, `+0.0` for 0 (R114, D62). A carry
out of the significand adds one to the exponent, as the sum below does. -/
def f32OfInt (s : Int) : F32 :=
  if s = 0 then 0
  else
    BitVec.ofNat 32
      ((if s < 0 then 2147483648 else 0) + (s.natAbs.log2 + 127) * 8388608 + (significand s.natAbs - 8388608))

/-- `x * 2^-23` for a zero or a float whose product is normal: the exponent less 23, exactly (R114, G3). -/
def f32DivFs (x : F32) : F32 := if f32Exp x ≤ 23 then x &&& 0x80000000 else x - (23#32 <<< 23)

/-- CVT.TOF: `f32_rne(s) * 2^-23` (R114). -/
def toFloat (s : Word) : F32 := f32DivFs (f32OfInt s.toInt)

/-- `x` clamped to `[CLAMP_LO, CLAMP_HI]` by the two comparisons of R115. -/
def clampFloat (x : F32) : F32 :=
  let x1 := if f32Lt Config.clampHi x then Config.clampHi else x
  if f32Lt x1 Config.clampLo then Config.clampLo else x1

/-- `trunc(real(x) * FS)` (R115). -/
def scaleTrunc (x : F32) : Int := (f32Units x * Config.fs).tdiv (2 ^ 149)

/-- `clamp(s, -8388608, 8388607)` (00_scope.md R12). -/
def clampI24 (s : Int) : Int := if s < -8388608 then -8388608 else if s > 8388607 then 8388607 else s

/-- CVT.FROMF of a float that is no NaN (R115). -/
def fromFloatNum (x : F32) : Word := BitVec.ofInt 32 (clampI24 (scaleTrunc (clampFloat x)))

/-- CVT.FROMF (R115): `k` is how many NaN draws have been taken, and a NaN takes the next (D9; log 11). -/
def fromFloat (x : F32) (k : Nat) : Word := if f32IsNan x then sext24 (Config.freeNan k) else fromFloatNum x

/-- The draw count after `x` has been converted. -/
def nextDraw (x : F32) (k : Nat) : Nat := if f32IsNan x then k + 1 else k

/-- CVT.FROMF of each element in turn, each NaN with its own draw (R117). -/
def fromFloats : List F32 → Nat → List Word
  | [], _ => []
  | x :: xs, k => fromFloat x k :: fromFloats xs (nextDraw x k)

/-- The draw count after a list has been converted. -/
def drawsAfter : List F32 → Nat → Nat
  | [], k => k
  | x :: xs, k => drawsAfter xs (nextDraw x k)

/-! ## Blocks -/

/-- One channel of a block: `TOF(dec(block[2i + par]))` for `i ∈ [0, frames)`, `par` 0 for left and 1 for right (R116). -/
def deinterleave (frames par : Nat) (ws : List Word) : List F32 :=
  (List.range frames).map fun i => toFloat (wireDecode (ws.getD (2 * i + par) 0))

/-- Left and right in alternation, left first (20_memory.md R75). -/
def interleave : List F32 → List F32 → List F32
  | [], _ => []
  | _ :: _, [] => []
  | l :: ls, r :: rs => l :: r :: interleave ls rs

/-- The words of CVT.INT: `enc(FROMF(·))` of the interleaved channels (R117). -/
def interleaveWords (l r : List F32) (k : Nat) : List Word := (fromFloats (interleave l r) k).map wireEncode

/-! ## Sequencer codes -/

/-- `b0 = (a << 1) | v[8]` (42_codec_sequencer.md R200). -/
def wrByte0 (a : RegAddr) (v : RegVal) : Byte := (a.setWidth 8 <<< 1) ||| (v >>> 8).setWidth 8

/-- `b1 = v[7:0]` (42_codec_sequencer.md R200). -/
def wrByte1 (v : RegVal) : Byte := v.setWidth 8

/-- Input volume code `(dB + 17) * 100 div 75` (42_codec_sequencer.md R233); `dB` is in range when it is used. -/
def inputCode (dB : Int) : Byte := BitVec.ofNat 8 ((dB + 17).toNat * 100 / 75)

/-- Output volume code `dB + 73 + 0x30` (42_codec_sequencer.md R238). -/
def outputCode (dB : Int) : RegVal := BitVec.ofInt 9 (dB + 73 + 0x30)

/-- `0x100 | inputVolume[c]` (42_codec_sequencer.md R205). -/
def pgaValue (v : Byte) : RegVal := 0x100 ||| v.setWidth 9

/-- `0x100 | code` (42_codec_sequencer.md R206). -/
def outputValue (dB : Int) : RegVal := 0x100 ||| outputCode dB

/-- The output jacks; none for an input jack (42_codec_sequencer.md R204). -/
def outJack (j : Jack) : Option OutJack :=
  match j with
  | .speaker => some .speaker
  | .headphone => some .headphone
  | .lineOut => some .lineOut
  | .microphone => none
  | .defaultIn => none
  | .defaultOut => some .defaultOut

/-- `chans(channel)` (42_codec_sequencer.md R237). -/
def chans (h : Channel) : List Side :=
  match h with
  | .left => [.left]
  | .right => [.right]
  | .all => [.left, .right]

/-- The element of a channel. -/
def sideOf {α : Type} (p : PerSide α) (c : Side) : α :=
  match c with
  | .left => p.left
  | .right => p.right

/-- The element of a channel replaced. -/
def setSide {α : Type} (p : PerSide α) (c : Side) (x : α) : PerSide α :=
  match c with
  | .left => { p with left := x }
  | .right => { p with right := x }

/-- `OUT_VOL_REG(j, c)` (42_codec_sequencer.md R203). -/
def outVolReg (cfg : Config) (j : OutJack) (c : Side) : RegAddr :=
  match j with
  | .speaker => sideOf cfg.outVol.speaker c
  | .headphone => sideOf cfg.outVol.headphone c
  | .lineOut => sideOf cfg.outVol.lineOut c
  | .defaultOut => sideOf cfg.outVol.defaultOut c

/-- The table of a flag pair (42_codec_sequencer.md R203). -/
def flagTable (t : FlagTable) (hi ho : Bool) : List RegWrite :=
  match hi, ho with
  | true, true => t.both
  | true, false => t.inOnly
  | false, true => t.outOnly
  | false, false => t.neither

/-- The control information `(supported, rangeMin, rangeMax)` (42_codec_sequencer.md R228); the last line is the table's
"any other combination". -/
def controlInfo (c : Control) (j : Jack) (h : Channel) : Bool × Int × Int :=
  match c, outJack j, h with
  | .mute, none, _ => (true, 0, 1)
  | .volume, none, _ => (true, -17, 30)
  | .volume, some _, _ => (true, -73, 6)
  | .alc, none, .all => (true, 0, 1)
  | _, _, _ => (false, 0, 0)

/-! ## Parser -/

/-- State 0 accepts a byte whose top nibble is 0x8, 0x9 or 0xB (43_midi.md R251). -/
def acceptsStatus (b : Byte) : Bool :=
  b.extractLsb' 4 4 == 0x8#4 || b.extractLsb' 4 4 == 0x9#4 || b.extractLsb' 4 4 == 0xB#4

/-- The sink call of a message, none where its type is not forwarded (43_midi.md R253 to R255, R258). -/
def sinkCallOf (st d1 d2 : Byte) : Option SinkCall :=
  let t0 := st &&& 0xF0
  let ch := st &&& 0x0F
  let t := if t0 = 0x90 ∧ d2 = 0 then 0x80 else t0
  if t = 0x80 ∨ t = 0x90 ∨ t = 0xB0 ∨ t = 0xE0 then some ⟨3, 0, t, ch, d1, d2⟩
  else if t = 0xC0 ∨ t = 0xD0 then some ⟨2, 0, t, ch, d1, 0⟩
  else none

/-! ## Results -/

/-- The number of a status code (60_exceptions.md R300). -/
def statusCode (s : Status) : Nat :=
  match s with
  | .ok => 0
  | .sizeMismatch => 1
  | .busWriteFailure => 2
  | .rangeViolation => 3
  | .unsupported => 4
  | .rateUnsupported => 5
  | .illegalCommand => 6

/-- The result payload of CODEC.INFO (30_encoding.md R98). -/
def infoPayload (r : Bool × Int × Int) : ResultPayload :=
  .info r.1 (BitVec.ofInt 32 r.2.1) (BitVec.ofInt 32 r.2.2)

end Sys2Proof.Machine
end

