-- ==== Sys2Proof/Machine/Flags.lean ====
section
/-! DEFINITION. The boolean state of the block. It has no condition codes and no command sets a flag as a side effect
(10_state.md R32); what it has is the slot selector (R34), the model-only order tracker (R39) and the model-only fault
record (R46). -/

namespace Sys2Proof.Machine

/-- A fault kind added to the set (10_state.md R46). -/
def faultAdd (k : Fault) (f : FaultSet) : FaultSet :=
  match k with
  | .unwrittenRead => { f with unwrittenRead := true }
  | .orderViolation => { f with orderViolation := true }

/-- Membership in the fault set. -/
def faultHas (k : Fault) (f : FaultSet) : Bool :=
  match k with
  | .unwrittenRead => f.unwrittenRead
  | .orderViolation => f.orderViolation

/-- `raise Fault(kind)`: recorded, and the command goes on (60_exceptions.md R310). -/
def State.raise (k : Fault) (s : State) : State := { s with faults := faultAdd k s.faults }

/-- `S.phase <- p`. -/
def State.setPhase (p : Phase) (s : State) : State := { s with phase := p }

/-- `check_order_recv()` and `check_order_req()`, for the phase each expects (70_reset_and_hazards.md R342). -/
def State.checkOrder (want : Phase) (s : State) : State :=
  if s.phase = want then s else s.raise .orderViolation

/-- The selected slot `k` (41_arbiter.md R153). -/
def State.selected (s : State) : Slot := if s.activeIsA then .A else .B

/-- `S.activeIsA <- not S.activeIsA` (41_arbiter.md R158). -/
def State.flip (s : State) : State := { s with activeIsA := !s.activeIsA }

end Sys2Proof.Machine
end

