-- ==== Sys2Proof/Machine/Ops.lean ====
section
/-! DEFINITION. The named operations over the state: buffers and their written marks (10_state.md R35 to R38), the external
calls (00_scope.md R13), the ports (30_encoding.md R90), taking a command, and the outcomes every command shares
(60_exceptions.md). The block has no trap (60_exceptions.md R315): an outcome is a response, and `State.illegal` is the one
that any command word or payload can meet (R306). -/

namespace Sys2Proof.Machine

/-! ## One buffer -/

/-- The element at `i`, none where it is unwritten. -/
def Buffer.read : Buffer → Nat → Option Word
  | [], _ => none
  | (k, w) :: rest, i => if k = i then some w else Buffer.read rest i

/-- The buffer with `w` at `i`, in canonical form. -/
def Buffer.write : Buffer → Nat → Word → Buffer
  | [], i, w => [(i, w)]
  | (k, v) :: rest, i, w =>
    if i < k then (i, w) :: (k, v) :: rest
    else if i = k then (i, w) :: rest
    else (k, v) :: Buffer.write rest i w

/-- The elements of a list written from `i` on. -/
def Buffer.writeFrom : Buffer → Nat → List Word → Buffer
  | b, _, [] => b
  | b, i, w :: ws => Buffer.writeFrom (Buffer.write b i w) (i + 1) ws

/-- Every index is above `lo`, and they rise strictly. -/
def Buffer.rising : Nat → Buffer → Bool
  | _, [] => true
  | lo, (k, _) :: rest => decide (lo ≤ k) && Buffer.rising (k + 1) rest

/-- The canonical form of a buffer of length `n`: indexes strictly rising and below `n`. -/
def Buffer.wf (n : Nat) (b : Buffer) : Bool := Buffer.rising 0 b && b.all fun e => decide (e.1 < n)

/-! ## The buffers of the state -/

/-- The buffer of an index space. -/
def Buffers.get (bs : Buffers) (b : BufId) : Buffer :=
  match b with
  | .inSlot .A => bs.inSlotA
  | .inSlot .B => bs.inSlotB
  | .outSlot .A => bs.outSlotA
  | .outSlot .B => bs.outSlotB
  | .dspInL => bs.dspInL
  | .dspInR => bs.dspInR
  | .dspOutL => bs.dspOutL
  | .dspOutR => bs.dspOutR

/-- The buffers with one replaced. -/
def Buffers.set (bs : Buffers) (b : BufId) (x : Buffer) : Buffers :=
  match b with
  | .inSlot .A => { bs with inSlotA := x }
  | .inSlot .B => { bs with inSlotB := x }
  | .outSlot .A => { bs with outSlotA := x }
  | .outSlot .B => { bs with outSlotB := x }
  | .dspInL => { bs with dspInL := x }
  | .dspInR => { bs with dspInR := x }
  | .dspOutL => { bs with dspOutL := x }
  | .dspOutR => { bs with dspOutR := x }

/-- How many elements an index space has (20_memory.md R70). -/
def bufLength (c : Config) (b : BufId) : Nat :=
  match b with
  | .inSlot _ | .outSlot _ => c.n
  | .dspInL | .dspInR | .dspOutL | .dspOutR => c.frames

/-- Every buffer is in canonical form and inside its index space. -/
def Buffers.wf (c : Config) (bs : Buffers) : Bool :=
  Buffer.wf c.n bs.inSlotA && Buffer.wf c.n bs.inSlotB && Buffer.wf c.n bs.outSlotA && Buffer.wf c.n bs.outSlotB &&
    Buffer.wf c.frames bs.dspInL && Buffer.wf c.frames bs.dspInR && Buffer.wf c.frames bs.dspOutL &&
    Buffer.wf c.frames bs.dspOutR

/-- The buffer of an index space, in a state. -/
def State.buf (s : State) (b : BufId) : Buffer := s.bufs.get b

/-- The written mark `wr(b, i)` (10_state.md R38). -/
def State.written (s : State) (b : BufId) (i : Nat) : Bool := (Buffer.read (s.buf b) i).isSome

/-- The value `BufRead(b, i)` gives: of an unwritten element, what it holds since reset, a free value (60_exceptions.md
R311, I20; log 12). -/
def State.bufVal (s : State) (b : BufId) (i : Nat) : Word :=
  match Buffer.read (s.buf b) i with
  | some w => w
  | none => Config.freeContent b i

/-- `BufRead(b, i)` for each `i ∈ [0, n)`: the values. -/
def State.bufVals (s : State) (b : BufId) (n : Nat) : List Word := (List.range n).map (s.bufVal b)

/-- `BufRead(b, i)` for each `i ∈ [0, n)`: the effect, a recorded fault where an element is unwritten (R38, R311). -/
def State.noteReads (b : BufId) (n : Nat) (s : State) : State :=
  if (List.range n).all (s.written b) then s else s.raise .unwrittenRead

/-- A buffer replaced. -/
def State.setBuf (b : BufId) (x : Buffer) (s : State) : State := { s with bufs := s.bufs.set b x }

/-- `BufWrite(b, j, ws[j])` for each `j` below the length of `ws` (00_scope.md R13). -/
def State.bufWriteAll (b : BufId) (ws : List Word) (s : State) : State :=
  s.setBuf b (Buffer.writeFrom (s.buf b) 0 ws)

/-! ## Ports and history -/

/-- An external call added to the history (70_reset_and_hazards.md R355). -/
def State.emit (e : Event) (s : State) : State := { s with history := s.history ++ [e] }

/-- `return (status, result)`: the result port takes the result, and the command's payload is consumed (R13, R90). -/
def State.respond (st : Status) (p : ResultPayload) (s : State) : State :=
  { s with operand := .empty, result := some ⟨st, p⟩ }

/-- `ILLEGAL_COMMAND`: no state change, no external call, an empty result (60_exceptions.md R306). -/
def State.illegal (s : State) : State := s.respond .illegalCommand .empty

/-- A command taken from the command port: its payload stands as the operand, the rest stay pending (R90). -/
def State.accept (p : Payload) (rest : List Command) (s : State) : State :=
  { s with operand := p, pending := rest }

/-! ## External agents -/

/-- The bus agent's answer to a write, and the agent after it (42_codec_sequencer.md R201; log 8). -/
def busAnswer (b : BusAgent) : Fin 3 × BusAgent :=
  match b.script with
  | a :: rest => (a, { b with script := rest })
  | [] => (Config.freeAck b.drawn, { b with drawn := b.drawn + 1 })

/-- The byte source's answer to a read of at most `max` bytes, and the source after it: bytes laid down beyond `max` stay
for the next read (43_midi.md R257, I24; log 9). -/
def srcAnswer (max : Nat) (r : SrcAgent) : List Byte × SrcAgent :=
  match r.script with
  | bs :: rest => (bs.take max, { r with script := if bs.length ≤ max then rest else bs.drop max :: rest })
  | [] => ((Config.freeSrc r.drawn).take max, { r with drawn := r.drawn + 1 })

/-- The oracle `dsp(dspState, inL, inR) -> (dspState', outL, outR)` (41_arbiter.md R157): uninterpreted, with as many
output elements as there are frames; an element laid down for this call is that element (log 10). -/
def dspOracle (frames : Nat) (d : DspState) (inL inR : List F32) : DspState × List F32 × List F32 :=
  let a := d.script.headD ⟨[], []⟩
  ({ d with code := Config.dspNext d.code inL inR, script := d.script.tail },
    (List.range frames).map fun i => (a.outL[i]?).getD (Config.dspLeft d.code inL inR i),
    (List.range frames).map fun i => (a.outR[i]?).getD (Config.dspRight d.code inL inR i))

/-- The bus agent replaced. -/
def State.setBus (b : BusAgent) (s : State) : State := { s with bus := b }

/-- The byte source replaced. -/
def State.setSrc (r : SrcAgent) (s : State) : State := { s with src := r }

/-- `S.dspState <- d`. -/
def State.setDsp (d : DspState) (s : State) : State := { s with dspState := d }

/-- The NaN draw count replaced. -/
def State.setDraws (k : Nat) (s : State) : State := { s with nanDraws := k }

/-- `BusWrite(b0, b1) -> acked` to `BUS_ADDR` (00_scope.md R13, 42_codec_sequencer.md R200). -/
def State.busWrite (b0 b1 : Byte) (s : State) : Fin 3 × State :=
  ((busAnswer s.bus).1, (s.setBus (busAnswer s.bus).2).emit (.busWrite s.cfg.busAddr b0 b1 (busAnswer s.bus).1))

/-- `Sink(count, ts, type, ch, d1, d2)`: the call, and the DSP's change of state (20_memory.md R82). -/
def State.sink (c : SinkCall) (s : State) : State :=
  (s.setDsp { s.dspState with code := Config.dspSink s.dspState.code c }).emit (.sink c)

/-! ## The register-write primitive -/

/-- `WR(a, v)` (42_codec_sequencer.md R200): true exactly when both bytes were acknowledged (R201). -/
def State.wr (a : RegAddr) (v : RegVal) (s : State) : Bool × State :=
  ((s.busWrite (wrByte0 a v) (wrByte1 v)).1 == 2, (s.busWrite (wrByte0 a v) (wrByte1 v)).2)

/-- Writes in order, up to the first that fails (42_codec_sequencer.md R237, 60_exceptions.md R302). -/
def State.wrAll : List RegWrite → State → Bool × State
  | [], s => (true, s)
  | w :: ws, s =>
    match s.wr w.addr w.val with
    | (true, s') => State.wrAll ws s'
    | (false, s') => (false, s')

/-- The outcome of a command whose last writes went as `r` says: `OK` or `BUS_WRITE_FAILURE` (R300, R302). -/
def finishWrites (r : Bool × State) : State :=
  if r.1 then r.2.respond .ok (.flag true) else r.2.respond .busWriteFailure (.flag false)

/-- `S.seq <- p` (10_state.md R31). -/
def State.setSeq (p : SeqPos) (s : State) : State := { s with seq := p }

/-- The table walk of CODEC.PROBE: writes in order from position `k`, leaving at the first unacknowledged write
(42_codec_sequencer.md R221, 30_encoding.md R103). -/
def State.walk : Nat → List RegWrite → State → Bool × State
  | _, [], s => (true, s)
  | k, w :: ws, s =>
    match (s.setSeq (.writing k)).wr w.addr w.val with
    | (true, s') => State.walk (k + 1) ws s'
    | (false, s') => (false, s')

/-! ## The volume cache -/

/-- `S.inputVolume[c]` (10_state.md R41). -/
def State.vol (s : State) (c : Side) : Byte := sideOf s.inputVolume c

/-- `S.inputVolume[c] <- v`. -/
def State.setVol (c : Side) (v : Byte) (s : State) : State := { s with inputVolume := setSide s.inputVolume c v }

/-- The cache of each channel of a list updated by `f`, in order. -/
def State.updateVols (cs : List Side) (f : Byte → Byte) (s : State) : State :=
  cs.foldl (fun t c => t.setVol c (f (t.vol c))) s

/-- The PGA writes of a list of channels: `0x100 | S.inputVolume[c]` to `REG_INVOL(c)` (42_codec_sequencer.md R205). -/
def State.pgaWrites (cs : List Side) (s : State) : List RegWrite :=
  cs.map fun c => ⟨sideOf s.cfg.involReg c, pgaValue (s.vol c)⟩

/-! ## The parser's state -/

/-- `S.mstate <- m`. -/
def State.setMState (m : MState) (s : State) : State := { s with mstate := m }

/-- The partial-message buffer replaced. -/
def State.setMbuf (b : MidiBuf) (s : State) : State := { s with mbuf := b }

/-! ## Taking a command -/

/-- What the command port offers a step. -/
inductive Fetched where
  /-- No command is pending (log 2). -/
  | idle
  /-- The word is illegal (30_encoding.md R97(a) to (c)); the state after `ILLEGAL_COMMAND`. -/
  | illegal (s : State)
  /-- The instruction, and the state in which it runs. -/
  | run (i : Instr) (s : State)

/-- The first pending command, decoded (30_encoding.md R99). -/
def State.fetch (s : State) : Fetched :=
  match s.pending with
  | [] => .idle
  | c :: rest =>
    match decode c.cw with
    | .ok i => .run i (s.accept c.payload rest)
    | .error _ => .illegal (s.accept c.payload rest).illegal

/-- The payload of the shape R98 gives the instruction, all of its words 0 (log 21). -/
def zeroPayload (c : Config) (i : Instr) : Payload :=
  match i with
  | .cvtDecLj => .word 0
  | .cvtDecLo24 => .word 0
  | .cvtEncLj => .word 0
  | .cvtEncLo24 => .word 0
  | .cvtTof => .word 0
  | .cvtFromf => .word 0
  | .cvtDeint => .block (List.replicate c.n 0)
  | .cvtInt => .channels (List.replicate c.frames 0) (List.replicate c.frames 0)
  | .pipeRecv => .lenBlock 0 []
  | .pipeReq => .word 0
  | .codecProbe => .empty
  | .codecEnjack _ => .empty
  | .codecDisjack _ => .empty
  | .codecInfo _ _ _ => .empty
  | .codecSet _ _ _ => .word 0
  | .midiByte _ => .empty
  | .midiPacket _ _ _ => .empty
  | .midiPoll => .empty

/-- A table word offered as the next command, its operand words zero. -/
def State.offerWord (s : State) (nbits w : Nat) : State :=
  let p :=
    match decodeTableWord nbits w with
    | some i => zeroPayload s.cfg i
    | none => .empty
  { s with pending := ⟨BitVec.ofNat 32 (w % 2 ^ nbits), p⟩ :: s.pending }

/-- Commands issued by the agents, after those already pending (20_memory.md R83, 60_exceptions.md R320). -/
def State.issue (cs : List Command) (s : State) : State := { s with pending := s.pending ++ cs }

end Sys2Proof.Machine
end

