-- ==== Sys2Proof/Machine/Converter.lean ====
section
/-! DEFINITION. The converter family (40_converter.md). Each command takes its operand from the payload; a payload of another
shape is `ILLEGAL_COMMAND` (30_encoding.md R97(d)). No CVT command reads or writes block state. -/

namespace Sys2Proof.Machine

/-- A command over one 32-bit operand. -/
def State.onWord (s : State) (f : Word → State) : State :=
  match s.operand with
  | .word w => f w
  | .empty | .block _ | .channels _ _ | .lenBlock _ _ => s.illegal

/-- A command without operands. -/
def State.onEmpty (s : State) (t : State) : State :=
  match s.operand with
  | .empty => t
  | .word _ | .block _ | .channels _ _ | .lenBlock _ _ => s.illegal

/-- CVT.DEC.LJ (R110). -/
def execCvtDecLj (s : State) : Host.Outcome State Fault Refusal :=
  .next (s.onWord fun w => s.respond .ok (.sample (decLj w)))

/-- CVT.DEC.LO24 (R111). -/
def execCvtDecLo24 (s : State) : Host.Outcome State Fault Refusal :=
  .next (s.onWord fun w => s.respond .ok (.sample (decLo24 w)))

/-- CVT.ENC.LJ (R112). -/
def execCvtEncLj (s : State) : Host.Outcome State Fault Refusal :=
  .next (s.onWord fun x => s.respond .ok (.word (encLj x)))

/-- CVT.ENC.LO24 (R113). -/
def execCvtEncLo24 (s : State) : Host.Outcome State Fault Refusal :=
  .next (s.onWord fun x => s.respond .ok (.word (encLo24 x)))

/-- CVT.TOF (R114). -/
def execCvtTof (s : State) : Host.Outcome State Fault Refusal :=
  .next (s.onWord fun x => s.respond .ok (.float (toFloat x)))

/-- CVT.FROMF (R115); a NaN takes the next draw (log 11). -/
def execCvtFromf (s : State) : Host.Outcome State Fault Refusal :=
  .next (s.onWord fun x =>
    (s.setDraws (nextDraw x s.nanDraws)).respond .ok (.sample (fromFloat x s.nanDraws)))

/-- CVT.DEINT (R116). -/
def execCvtDeint (s : State) : Host.Outcome State Fault Refusal :=
  .next
    (match s.operand with
    | .block ws =>
      if ws.length = s.cfg.n then
        s.respond .ok (.channels (deinterleave s.cfg.frames 0 ws) (deinterleave s.cfg.frames 1 ws))
      else s.illegal
    | .empty | .word _ | .channels _ _ | .lenBlock _ _ => s.illegal)

/-- CVT.INT (R117); each NaN takes its own draw (log 11). -/
def execCvtInt (s : State) : Host.Outcome State Fault Refusal :=
  .next
    (match s.operand with
    | .channels l r =>
      if l.length = s.cfg.frames ∧ r.length = s.cfg.frames then
        (s.setDraws (drawsAfter (interleave l r) s.nanDraws)).respond .ok (.block (interleaveWords l r s.nanDraws))
      else s.illegal
    | .empty | .word _ | .block _ | .lenBlock _ _ => s.illegal)

end Sys2Proof.Machine
end

