-- ==== Sys2Proof/Machine/Arbiter.lean ====
section
/-! DEFINITION. The double-buffer arbiter family (41_arbiter.md) and its order check (70_reset_and_hazards.md R342). -/

namespace Sys2Proof.Machine

/-- PIPE.RECV with a block of the right length (41_arbiter.md R152, from the slot selection on). -/
def State.recvBlock (ws : List Word) (s : State) : State :=
  let k := s.selected
  let s1 := s.bufWriteAll (.inSlot k) ws
  let vs := s1.bufVals (.inSlot k) (2 * s.cfg.frames)
  let s2 := s1.noteReads (.inSlot k) (2 * s.cfg.frames)
  let s3 := s2.bufWriteAll .dspInL (deinterleave s.cfg.frames 0 vs)
  let s4 := s3.bufWriteAll .dspInR (deinterleave s.cfg.frames 1 vs)
  s4.respond .ok .empty

/-- PIPE.RECV of `len` words (41_arbiter.md R151, R152). -/
def State.recv (len : Word) (ws : List Word) (s : State) : State :=
  let s1 := (s.checkOrder .awaitIn).setPhase .awaitOut
  if len.toNat = s.cfg.n then s1.recvBlock ws
  else (s1.emit (.sizeMismatch .IN len)).respond .sizeMismatch .empty

/-- `bypass_copy()` (41_arbiter.md R156). -/
def State.bypassCopy (s : State) : State :=
  let f := s.cfg.frames
  let s1 := (s.noteReads .dspInL f).noteReads .dspInR f
  (s1.bufWriteAll .dspOutL (s.bufVals .dspInL f)).bufWriteAll .dspOutR (s.bufVals .dspInR f)

/-- `DspProcess()` (41_arbiter.md R157): the oracle reads both input buffers and replaces both output buffers. -/
def State.dspProcess (s : State) : State :=
  let f := s.cfg.frames
  let s1 := ((s.noteReads .dspInL f).noteReads .dspInR f).emit .dspProcess
  let a := dspOracle f s.dspState (s.bufVals .dspInL f) (s.bufVals .dspInR f)
  ((s1.setDsp a.1).bufWriteAll .dspOutL a.2.1).bufWriteAll .dspOutR a.2.2

/-- The DSP, or the bypass where none is bound (41_arbiter.md R155, R156). -/
def State.process (s : State) : State := if s.cfg.dspBound then s.dspProcess else s.bypassCopy

/-- The conversion of the output buffers into the selected output slot (41_arbiter.md R155). -/
def State.convertOut (s : State) : State :=
  let f := s.cfg.frames
  let l := s.bufVals .dspOutL f
  let r := s.bufVals .dspOutR f
  let s1 := (s.noteReads .dspOutL f).noteReads .dspOutR f
  (s1.setDraws (drawsAfter (interleave l r) s.nanDraws)).bufWriteAll (.outSlot s.selected)
    (interleaveWords l r s.nanDraws)

/-- PIPE.REQ with the right length (41_arbiter.md R155, from the slot selection on); the flip is the last step (R158). -/
def State.reqBlock (s : State) : State :=
  let s1 := s.process.convertOut
  let out := s1.bufVals (.outSlot s.selected) s.cfg.n
  let s2 := (s1.noteReads (.outSlot s.selected) s.cfg.n).flip
  s2.respond .ok (.request (BitVec.ofNat 32 s.cfg.n) (some out))

/-- PIPE.REQ for `len` words (41_arbiter.md R154, R155). -/
def State.req (len : Word) (s : State) : State :=
  let s1 := (s.checkOrder .awaitOut).setPhase .awaitIn
  if len.toNat = s.cfg.n then s1.reqBlock
  else (s1.emit (.sizeMismatch .OUT len)).respond .sizeMismatch (.request 0 none)

/-- PIPE.RECV (R152). A block that has not `len` words is no payload of the command (30_encoding.md R98). -/
def execPipeRecv (s : State) : Host.Outcome State Fault Refusal :=
  .next
    (match s.operand with
    | .lenBlock len ws => if ws.length = len.toNat then s.recv len ws else s.illegal
    | .empty | .word _ | .block _ | .channels _ _ => s.illegal)

/-- PIPE.REQ (R155). -/
def execPipeReq (s : State) : Host.Outcome State Fault Refusal :=
  .next (s.onWord fun len => s.req len)

end Sys2Proof.Machine
end

