-- ==== Sys2Proof/Machine/Parser.lean ====
section
/-! DEFINITION. The MIDI parser family (43_midi.md). -/

namespace Sys2Proof.Machine

/-- `Dispatch(s, d1, d2)` (R253): at most one sink call, none where no DSP is bound (R259). -/
def State.dispatch (st d1 d2 : Byte) (s : State) : State :=
  if s.cfg.dspBound then
    match sinkCallOf st d1 d2 with
    | some c => s.sink c
    | none => s
  else s

/-- A status byte in state 1 or 2 discards the partial message (R252); the desync is observed (60_exceptions.md R307). -/
def State.resync (b : Byte) (s : State) : State :=
  if s.mstate ≠ .awaitingStatus ∧ b.getLsbD 7 then (s.setMState .awaitingStatus).emit (.desync b) else s

/-- The state machine on a byte that is no desync (R252, after its first test). -/
def State.parse (b : Byte) (s : State) : State :=
  match s.mstate with
  | .awaitingStatus =>
    if acceptsStatus b then (s.setMbuf { s.mbuf with b0 := b }).setMState .awaitingData1 else s
  | .awaitingData1 => (s.setMbuf { s.mbuf with b1 := b }).setMState .awaitingData2
  | .awaitingData2 =>
    ((s.setMbuf { s.mbuf with b2 := b }).setMState .awaitingStatus).dispatch s.mbuf.b0 s.mbuf.b1 b

/-- The body of MIDI.BYTE (R252). -/
def State.midiStep (s : State) (b : Byte) : State := (s.resync b).parse b

/-- MIDI.POLL (R257): one read of the source, every byte parsed in order. -/
def State.poll (s : State) : State :=
  let a := srcAnswer s.cfg.midiPollMax s.src
  (a.1.foldl State.midiStep (s.setSrc a.2)).respond .ok (.bytesRead (BitVec.ofNat 32 a.1.length))

/-- MIDI.BYTE (R252). -/
def execMidiByte (b : Byte) (s : State) : Host.Outcome State Fault Refusal :=
  .next (s.onEmpty ((s.midiStep b).respond .ok .empty))

/-- MIDI.PACKET (R256). -/
def execMidiPacket (p0 p1 p2 : Byte) (s : State) : Host.Outcome State Fault Refusal :=
  .next (s.onEmpty ((s.dispatch p0 p1 p2).respond .ok .empty))

/-- MIDI.POLL (R257). -/
def execMidiPoll (s : State) : Host.Outcome State Fault Refusal := .next (s.onEmpty s.poll)

end Sys2Proof.Machine
end

