-- ==== Sys2Proof/Machine/Sequencer.lean ====
section
/-! DEFINITION. The codec register-write sequencer family (42_codec_sequencer.md). -/

namespace Sys2Proof.Machine

/-! ## The bring-up table -/

/-- `SEG1 ++ SEG2(hi, ho) ++ SEG3(hi, ho)` (R211 to R213). -/
def bringUpHead (c : Config) : List RegWrite :=
  [⟨15, 0x000⟩] ++ flagTable c.pwrTable c.hasInput c.hasOutput ++ flagTable c.mixTable c.hasInput c.hasOutput

/-- `SEG4(rate)`, none for a rate that has no table (R214 to R216). -/
def pllTable (c : Config) : Option (List RegWrite) :=
  if c.sampleRate = 48000 then
    some [⟨4, 0x005⟩, ⟨52, 0x038⟩, ⟨53, 0x031⟩, ⟨54, 0x026⟩, ⟨55, 0x0E8⟩]
  else if c.sampleRate = 44100 then
    some [⟨4, c.pll44.clock⟩, ⟨52, c.pll44.intN⟩, ⟨53, c.pll44.kHigh⟩, ⟨54, c.pll44.kMid⟩, ⟨55, c.pll44.kLow⟩]
  else none

/-- `SEG7` (R219): its PGA values are those of the cache, which CODEC.PROBE never changes. -/
def volumeSegment (c : Config) (v : PerSide Byte) : List RegWrite :=
  [⟨outVolReg c .headphone .left, 0x179⟩, ⟨outVolReg c .headphone .right, 0x179⟩,
    ⟨outVolReg c .speaker .left, 0x179⟩, ⟨outVolReg c .speaker .right, 0x179⟩, c.spkBoost,
    ⟨c.involReg.left, pgaValue v.left⟩, ⟨c.involReg.right, pgaValue v.right⟩]

/-- `SEG5 ++ SEG6 ++ SEG7 ++ SEG8` (R217 to R220). -/
def bringUpTail (c : Config) (v : PerSide Byte) : List RegWrite :=
  c.ctrlTable ++ c.ngTable ++ volumeSegment c v ++ c.routeTable

/-- The whole bring-up sequence (R210); none for a rate without a PLL table. -/
def bringUp (c : Config) (v : PerSide Byte) : Option (List RegWrite) :=
  (pllTable c).map fun pll => bringUpHead c ++ pll ++ bringUpTail c v

/-- CODEC.PROBE (R221): steps 1 to 3, the rate, steps 4 to 8. The sequencer is idle again at the end (10_state.md R31). -/
def State.probe (s : State) : State :=
  match s.walk 0 (bringUpHead s.cfg) with
  | (false, s1) => (s1.setSeq .idle).respond .busWriteFailure (.flag false)
  | (true, s1) =>
    match pllTable s.cfg with
    | none => (s1.setSeq .idle).respond .rateUnsupported (.flag false)
    | some pll =>
      match s1.walk (bringUpHead s.cfg).length (pll ++ bringUpTail s.cfg s.inputVolume) with
      | (false, s2) => (s2.setSeq .idle).respond .busWriteFailure (.flag false)
      | (true, s2) => (s2.setSeq .idle).respond .ok (.flag true)

/-- CODEC.PROBE (R221). -/
def execCodecProbe (s : State) : Host.Outcome State Fault Refusal := .next (s.onEmpty s.probe)

/-! ## Jacks and control information -/

/-- CODEC.ENJACK (R225): a Class-D write for Speaker, nothing for another jack. -/
def State.enableJack (j : Jack) (s : State) : State :=
  if j = .speaker then finishWrites (s.wr s.cfg.classdReg s.cfg.classdOn) else s.respond .ok (.flag true)

/-- CODEC.DISJACK (R226): a Class-D write for Speaker, unsupported for another jack. -/
def State.disableJack (j : Jack) (s : State) : State :=
  if j = .speaker then finishWrites (s.wr s.cfg.classdReg s.cfg.classdOff) else s.respond .unsupported (.flag false)

/-- CODEC.ENJACK (R225). -/
def execCodecEnjack (j : Jack) (s : State) : Host.Outcome State Fault Refusal := .next (s.onEmpty (s.enableJack j))

/-- CODEC.DISJACK (R226). -/
def execCodecDisjack (j : Jack) (s : State) : Host.Outcome State Fault Refusal := .next (s.onEmpty (s.disableJack j))

/-- CODEC.INFO (R228). -/
def execCodecInfo (c : Control) (j : Jack) (h : Channel) (s : State) : Host.Outcome State Fault Refusal :=
  .next (s.onEmpty (s.respond .ok (infoPayload (controlInfo c j h))))

/-! ## Setting controls -/

/-- Volume on an input jack (R231): the magnitude replaced, MUTE kept, bit 6 zero; then the PGA writes (R234). -/
def State.setInputVolume (h : Channel) (dB : Int) (s : State) : State :=
  let s1 := s.updateVols (chans h) fun v => (v &&& 0x80) ||| inputCode dB
  finishWrites (s1.wrAll (s1.pgaWrites (chans h)))

/-- Volume on an output jack (R232). -/
def State.setOutputVolume (o : OutJack) (h : Channel) (dB : Int) (s : State) : State :=
  finishWrites (s.wrAll ((chans h).map fun c => ⟨outVolReg s.cfg o c, outputValue dB⟩))

/-- Mute on an input jack (R235): the mute bit replaced, MAG kept; then the PGA writes. -/
def State.setMute (h : Channel) (value : Int) (s : State) : State :=
  let s1 := s.updateVols (chans h) fun v => (v &&& 0x7F) ||| (BitVec.ofInt 8 value <<< 7)
  finishWrites (s1.wrAll (s1.pgaWrites (chans h)))

/-- ALC (R236): on, the right channel takes the left magnitude, both PGA registers are written, then `ALC_ON_TABLE`; off,
`ALC_OFF_TABLE`. -/
def State.setAlc (value : Int) (s : State) : State :=
  if value = 1 then
    let s1 := s.setVol .right ((s.vol .right &&& 0x80) ||| (s.vol .left &&& 0x3F))
    finishWrites (s1.wrAll (s1.pgaWrites [.left, .right] ++ s.cfg.alcOnTable))
  else finishWrites (s.wrAll s.cfg.alcOffTable)

/-- CODEC.SET (R230): unsupported, then out of range, then the arm of the control and the jack class. -/
def State.setControl (c : Control) (j : Jack) (h : Channel) (value : Int) (s : State) : State :=
  let info := controlInfo c j h
  if !info.1 then s.respond .unsupported (.flag false)
  else if value < info.2.1 ∨ info.2.2 < value then s.respond .rangeViolation (.flag false)
  else
    match c, outJack j with
    | .volume, none => s.setInputVolume h value
    | .volume, some o => s.setOutputVolume o h value
    | .mute, _ => s.setMute h value
    | .alc, _ => s.setAlc value

/-- CODEC.SET (R230); the value is signed (D38). -/
def execCodecSet (c : Control) (j : Jack) (h : Channel) (s : State) : Host.Outcome State Fault Refusal :=
  .next (s.onWord fun v => s.setControl c j h v.toInt)

end Sys2Proof.Machine
end

