-- ==== Sys2Proof/Machine/Dispatch.lean ====
section
/-! DEFINITION. One arm per command of the opcode table (30_encoding.md R96). -/

namespace Sys2Proof.Machine

def exec (i : Instr) (s : State) : Host.Outcome State Fault Refusal :=
  match i with
  | .cvtDecLj => Sys2Proof.Machine.execCvtDecLj s
  | .cvtDecLo24 => Sys2Proof.Machine.execCvtDecLo24 s
  | .cvtEncLj => Sys2Proof.Machine.execCvtEncLj s
  | .cvtEncLo24 => Sys2Proof.Machine.execCvtEncLo24 s
  | .cvtTof => Sys2Proof.Machine.execCvtTof s
  | .cvtFromf => Sys2Proof.Machine.execCvtFromf s
  | .cvtDeint => Sys2Proof.Machine.execCvtDeint s
  | .cvtInt => Sys2Proof.Machine.execCvtInt s
  | .pipeRecv => Sys2Proof.Machine.execPipeRecv s
  | .pipeReq => Sys2Proof.Machine.execPipeReq s
  | .codecProbe => Sys2Proof.Machine.execCodecProbe s
  | .codecEnjack jack => Sys2Proof.Machine.execCodecEnjack jack s
  | .codecDisjack jack => Sys2Proof.Machine.execCodecDisjack jack s
  | .codecInfo control jack channel => Sys2Proof.Machine.execCodecInfo control jack channel s
  | .codecSet control jack channel => Sys2Proof.Machine.execCodecSet control jack channel s
  | .midiByte b => Sys2Proof.Machine.execMidiByte b s
  | .midiPacket p0 p1 p2 => Sys2Proof.Machine.execMidiPacket p0 p1 p2 s
  | .midiPoll => Sys2Proof.Machine.execMidiPoll s

end Sys2Proof.Machine
end

