-- ==== Sys2Proof/Machine/Step.lean ====
section
/-! DEFINITION. One step of the block: the first command offered on the command port is taken, decoded and run, as one
atomic transition (00_scope.md R14, 30_encoding.md R90, 20_memory.md R83). -/

namespace Sys2Proof.Machine

/-- One step. A configuration that 10_state.md R33 refuses runs no command (60_exceptions.md R313); with no command pending
nothing happens (log 2). -/
def step (s : State) : Host.Outcome State Fault Refusal :=
  if s.cfg.legal then
    match s.fetch with
    | .idle => .next s
    | .illegal s' => .next s'
    | .run i s' => exec i s'
  else .refused .illegalConfiguration

/-- `s` with a table word as the next command, its operand words zero (log 21). -/
def State.withFetchWord (s : State) (nbits w : Nat) : State := s.offerWord nbits w

end Sys2Proof.Machine
end

