-- ==== Sys2Proof/Safety.lean ====
section
/-! DEFINITION. What the claims call a clean entry, a run and a good end (70_reset_and_hazards.md R354, R355), and the
invariant that every step keeps. -/

namespace Sys2Proof.Machine

/-- No model fault is recorded (10_state.md R46). -/
def State.clean (s : State) : Prop := s.faults = ⟨false, false⟩

/-- A run (R355): the commands, issued to the block as constructed, taken one a step. -/
def runFrom (c : Config) (cs : List Command) : Host.Outcome State Fault Refusal :=
  Sys2Proof.core.run cs.length ((State.resetWith c).issue cs)

/-- A good run ends in a state with no fault recorded (60_exceptions.md R310). -/
def goodRun (c : Config) (cs : List Command) : Prop := ∃ t, runFrom c cs = .next t ∧ t.clean

/-- A cached input volume as 10_state.md R41 has it: bit 6 zero, MAG at most 62. -/
def volumeByteOk (v : Byte) : Bool := !v.getLsbD 6 && decide ((v &&& 0x3F).toNat ≤ 62)

/-- No element of a buffer is a NaN. -/
def nanFree (b : Buffer) : Bool := b.all fun e => !f32IsNan e.2

/-! ## What the bus will answer -/

/-- The acknowledge counts of the next `k` bus writes. -/
def nextAcks : Nat → BusAgent → List (Fin 3)
  | 0, _ => []
  | k + 1, b => (busAnswer b).1 :: nextAcks k (busAnswer b).2

/-- The bus after `k` writes. -/
def busAfter : Nat → BusAgent → BusAgent
  | 0, b => b
  | k + 1, b => busAfter k (busAnswer b).2

/-- How many writes a sequence issues, given what each would be answered: up to and with the first that is not
acknowledged in both bytes (42_codec_sequencer.md R237, 60_exceptions.md R302). -/
def issuedWrites : List (Fin 3) → Nat
  | [] => 0
  | a :: as => if a = 2 then issuedWrites as + 1 else 1

/-- The history entry of a register write (42_codec_sequencer.md R200). -/
def writeEvent (c : Config) (w : RegWrite) (acked : Fin 3) : Event :=
  .busWrite c.busAddr (wrByte0 w.addr w.val) (wrByte1 w.val) acked

/-- The history entries of a sequence of writes, given what each would be answered. -/
def writeEvents (c : Config) (ws : List RegWrite) (acks : List (Fin 3)) : List Event :=
  (List.zipWith (writeEvent c) ws acks).take (issuedWrites acks)

/-- The next `k` bus writes are acknowledged in both bytes: the premise of 70_reset_and_hazards.md R346. -/
abbrev reliableFor (k : Nat) (b : BusAgent) : Prop := nextAcks k b = List.replicate k 2

/-- The invariant of the block between commands: every buffer in canonical form inside its index space, both input
float buffers free of NaN (40_converter.md R122), the cache as R41 has it, the sequencer idle (R31), no payload kept on the
command port (R30), a partial message of an accepted status byte and data bytes (43_midi.md R251, R252). -/
structure State.Inv (s : State) : Prop where
  bufs : s.bufs.wf s.cfg = true
  inputsNoNan : nanFree s.bufs.dspInL = true ∧ nanFree s.bufs.dspInR = true
  cacheLeft : volumeByteOk s.inputVolume.left = true
  cacheRight : volumeByteOk s.inputVolume.right = true
  idle : s.seq = .idle
  operand : s.operand = .empty
  status : s.mstate ≠ .awaitingStatus → acceptsStatus s.mbuf.b0 = true
  data : s.mstate = .awaitingData2 → s.mbuf.b1.getLsbD 7 = false

end Sys2Proof.Machine
end

