-- ==== Sys2Proof/Certificates/Slice0/Obligations.lean ====
section
/-! DEFINITION. The statements for the provers. Each docstring names the rule of the spec it formalises. Where a statement
says `exec i s = .next { s with … }`, every field not named is unchanged: buffers with their written marks, selector, faults,
cache, parser, ports.

The spec's ports and agents appear in the statements as the model renders them, by its own choice: `pending`, `operand` and
`result` are the command and result ports (logs 1, 3, 4); `history` holds the external calls with the agent's answer, and
the desync observation that 60_exceptions.md R307 allows (log 5); `bus` and `src` hold what the agents will answer (logs 8,
9); `nanDraws` counts the draws for NaNs (log 11). No statement rests on a value the model chose for reset. -/

open Sys2Proof Sys2Proof.Machine

/-! ## Encoding and the command port -/

/-- 30_encoding.md R92, R96, R99: the decoder reads back every instruction from its command word, whatever its fields. -/
def Obligations.DecodeReadsBackEveryEncoding : Prop := ∀ i : Instr, decode (encode i) = .ok i

/-- 30_encoding.md R91, R92, R99: a word that decodes is the command word of what it decodes to, so no bit is ignored. -/
def Obligations.DecodedWordIsTheEncoding : Prop := ∀ (cw : Word) (i : Instr), decode cw = .ok i → encode i = cw

/-- 30_encoding.md R97(a) to (c), R99: the decoder refuses a word exactly where its opcode is not in the map, a bit outside
the fields of its format is set, or a field holds a reserved value. -/
def Obligations.DecodeRefusesExactlyTheReserved : Prop :=
  ∀ cw : Word,
    let op := cw.toNat / 2 ^ 24
    let jack := cw.toNat / 2 ^ 8 % 8
    let control := cw.toNat / 2 ^ 16 % 4
    let channel := cw.toNat % 4
    (∃ e, decode cw = .error e) ↔
      (op ∉ [0x01, 0x02, 0x03, 0x04, 0x05, 0x06, 0x07, 0x08, 0x10, 0x11, 0x20, 0x21, 0x22, 0x23, 0x24, 0x30, 0x31, 0x32]
      ∨ (op ∈ [0x01, 0x02, 0x03, 0x04, 0x05, 0x06, 0x07, 0x08, 0x10, 0x11, 0x20, 0x32] ∧ cw &&& 0x00FFFFFF ≠ 0)
      ∨ (op ∈ [0x21, 0x22] ∧ (cw &&& 0x00FFF8FF ≠ 0 ∨ 6 ≤ jack))
      ∨ (op ∈ [0x23, 0x24] ∧ (cw &&& 0x00FCF8FC ≠ 0 ∨ 6 ≤ jack ∨ control = 3 ∨ channel = 3))
      ∨ (op = 0x30 ∧ cw &&& 0x00FFFF00 ≠ 0))

/-- 30_encoding.md R102: the encoded words of the examples. -/
def Obligations.ExampleWordsDecode : Prop :=
  decode 0x01000000 = .ok .cvtDecLj ∧ decode 0x10000000 = .ok .pipeRecv ∧ decode 0x11000000 = .ok .pipeReq ∧
  decode 0x20000000 = .ok .codecProbe ∧ decode 0x21000000 = .ok (.codecEnjack .speaker) ∧
  decode 0x23010302 = .ok (.codecInfo .volume .microphone .all) ∧
  decode 0x24010100 = .ok (.codecSet .volume .headphone .left) ∧
  decode 0x24000300 = .ok (.codecSet .mute .microphone .left) ∧ decode 0x30000090 = .ok (.midiByte 0x90) ∧
  decode 0x31C51000 = .ok (.midiPacket 0xC5 0x10 0x00) ∧ decode 0x32000000 = .ok .midiPoll

/-- 20_memory.md R76: byte `k` of a word is `w[8k+7:8k]`, and the four bytes decode as the word does. -/
def Obligations.WordBytesAreLittleEndian : Prop :=
  ∀ w : Word, (∀ k, k < 4 → (wordBytes w)[k]? = some (BitVec.ofNat 8 (w.toNat / 2 ^ (8 * k)))) ∧
    decodeBytes (wordBytes w) = decode w

/-- 30_encoding.md R101: what each pseudo-command's words decode to, and the payloads that go with them. For the forms that
R101 does not give, MIDI.FEED of no bytes and CODEC.ALC of a word other than 0 and 1, it is the model's choice (log 27). -/
def Obligations.PseudoCommandsExpand : Prop :=
  (∀ bs : List Byte, (Pseudo.midiFeed bs).expand.map (fun c => (decode c.cw, c.payload))
      = bs.map fun b => (.ok (.midiByte b), .empty)) ∧
  (∀ j h, (Pseudo.codecMute j h).expand.map (fun c => (decode c.cw, c.payload))
      = [(.ok (.codecSet .mute j h), .word 1)]) ∧
  (∀ j h, (Pseudo.codecUnmute j h).expand.map (fun c => (decode c.cw, c.payload))
      = [(.ok (.codecSet .mute j h), .word 0)]) ∧
  (∀ j h dB, (Pseudo.codecVol j h dB).expand.map (fun c => (decode c.cw, c.payload))
      = [(.ok (.codecSet .volume j h), .word dB)]) ∧
  (∀ on, (Pseudo.codecAlc on).expand.map (fun c => (decode c.cw, c.payload))
      = [(.ok (.codecSet .alc .microphone .all), .word on)])

/-- 30_encoding.md R90, 00_scope.md R14: a step takes the first command of the port, its payload becomes the operand, and
the decoded instruction runs. -/
def Obligations.StepRunsTheDecodedCommand : Prop :=
  ∀ (s : State) (c : Command) (rest : List Command) (i : Instr),
    s.cfg.legal = true → s.pending = c :: rest → decode c.cw = .ok i →
    step s = exec i { s with operand := c.payload, pending := rest }

/-- 60_exceptions.md R306: a command word the decoder refuses, or a payload of another shape than R98 gives, changes no
state and makes no external call; the result is `ILLEGAL_COMMAND`, empty, and the command is consumed. -/
def Obligations.IllegalCommandChangesNothing : Prop :=
  (∀ (s : State) (c : Command) (rest : List Command) (e : DecodeError),
    s.cfg.legal = true → s.pending = c :: rest → decode c.cw = .error e →
    step s = .next { s with pending := rest, operand := .empty, result := some ⟨.illegalCommand, .empty⟩ }) ∧
  (∀ (i : Instr) (s : State), i.wellFormed s.cfg s.operand = false →
    exec i s = .next { s with operand := .empty, result := some ⟨.illegalCommand, .empty⟩ })

/-- 60_exceptions.md R313, 10_state.md R33: a block with both capability flags false, an odd `N` or `N = 0` runs no command:
the step is a refusal, not a fault. Every other block's step answers a next state: a command by R309; with nothing pending
it is the model's choice that the step answers a next state (log 2, DESIGN CHOICE). -/
def Obligations.RefusedConfigurationRunsNothing : Prop :=
  ∀ s : State,
    if (s.cfg.hasInput = false ∧ s.cfg.hasOutput = false) ∨ s.cfg.n % 2 = 1 ∨ s.cfg.n = 0 then
      step s = .refused .illegalConfiguration
    else ∃ t, step s = .next t

/-- 60_exceptions.md R309: no command stops the block, whatever its operands and the state: every one answers a next state,
its result on the port. As R300 has it, a boolean result is true exactly when the status is `OK`, and `framesWritten` is 0
exactly when it is not (`N` is not 0, R33). -/
def Obligations.EveryCommandAnswersItsIssuer : Prop :=
  ∀ (i : Instr) (s : State), ∃ t r, exec i s = .next t ∧ t.result = some r ∧ t.pending = s.pending ∧
    (∀ ok, r.payload = .flag ok → (ok = true ↔ r.status = .ok)) ∧
    (∀ n b, r.payload = .request n b → s.cfg.n ≠ 0 → (n = 0 ↔ r.status ≠ .ok))

/-! ## Reset and invariants -/

/-- 70_reset_and_hazards.md R340: what construction leaves, and that the configuration fixed there never changes. -/
def Obligations.ResetValues : Prop :=
  (∀ c : Config,
    let s := State.resetWith c
    s.cfg = c ∧ s.activeIsA = true ∧ (∀ b i, s.written b i = false) ∧ s.phase = .awaitIn ∧
    s.inputVolume = ⟨0x16, 0x16⟩ ∧ s.seq = .idle ∧ s.mstate = .awaitingStatus ∧
    (∀ k, faultHas k s.faults = false)) ∧
  ∀ s t : State, step s = .next t → t.cfg = s.cfg

/-- The invariant holds at construction (log 6 names the configuration of `State.reset`). -/
def Obligations.InvariantAtReset : Prop := ∀ c : Config, (State.resetWith c).Inv

/-- Every step keeps the invariant: canonical buffers inside their index spaces (20_memory.md R71), no NaN in the input
buffers (40_converter.md R122), the cache with bit 6 zero and MAG at most 62 (10_state.md R41), the sequencer idle (R31), the
ports keeping nothing (R30), and a partial message of a status byte that state 0 accepts and a data byte (43_midi.md R251). -/
def Obligations.EveryStepKeepsInvariant : Prop :=
  ∀ s t : State, s.Inv → step s = .next t → t.Inv

/-- 10_state.md R46: faults are empty at reset, raising adds a kind and keeps the others, no step removes one, and a run
that ends with one recorded is no good run. -/
def Obligations.FaultsAreSticky : Prop :=
  (∀ (c : Config) (k : Fault), faultHas k (State.resetWith c).faults = false) ∧
  (∀ (k j : Fault) (s : State), faultHas j (s.raise k).faults = (decide (j = k) || faultHas j s.faults)) ∧
  (∀ (s t : State) (k : Fault), step s = .next t → faultHas k s.faults = true → faultHas k t.faults = true) ∧
  (∀ (c : Config) (cs : List Command) (t : State) (k : Fault),
    runFrom c cs = .next t → faultHas k t.faults = true → ¬ goodRun c cs)

/-- 70_reset_and_hazards.md R355: the history of external calls only grows; a step appends its calls. -/
def Obligations.HistoryOnlyGrows : Prop :=
  ∀ s t : State, step s = .next t → ∃ es, t.history = s.history ++ es

/-- 10_state.md R34: the slot selector changes in a step exactly when the command taken is a PIPE.REQ of the right length. -/
def Obligations.OnlyASuccessfulRequestFlips : Prop :=
  ∀ s t : State, step s = .next t →
    (t.activeIsA ≠ s.activeIsA ↔
      ∃ c rest len, s.pending = c :: rest ∧ decode c.cw = .ok .pipeReq ∧ c.payload = .word len ∧ len.toNat = s.cfg.n)

/-- 10_state.md R37, R39, R41, R43, R45, R46, 60_exceptions.md R325: each unit alone changes its own state. A step changes the
buffers, `phase` or the fault record only for a PIPE command, the cache only for CODEC.SET, the bus only for a CODEC command,
the parser's state only for MIDI.BYTE or MIDI.POLL, the byte source only for MIDI.POLL, and the DSP's state only for PIPE.REQ
or a MIDI command with a DSP bound. -/
def Obligations.EachUnitChangesOnlyItsOwnState : Prop :=
  ∀ s t : State, step s = .next t →
    let taken (P : Instr → Prop) : Prop := ∃ c rest i, s.pending = c :: rest ∧ decode c.cw = .ok i ∧ P i
    (t.bufs ≠ s.bufs ∨ t.phase ≠ s.phase ∨ t.faults ≠ s.faults → taken fun i => i = .pipeRecv ∨ i = .pipeReq) ∧
    (t.inputVolume ≠ s.inputVolume → taken fun i => ∃ c j h, i = .codecSet c j h) ∧
    (t.bus ≠ s.bus → taken fun i =>
      i = .codecProbe ∨ i = .codecEnjack .speaker ∨ i = .codecDisjack .speaker ∨ ∃ c j h, i = .codecSet c j h) ∧
    (t.mstate ≠ s.mstate ∨ t.mbuf ≠ s.mbuf → taken fun i => (∃ b, i = .midiByte b) ∨ i = .midiPoll) ∧
    (t.src ≠ s.src → taken fun i => i = .midiPoll) ∧
    (t.dspState ≠ s.dspState → s.cfg.dspBound = true ∧
      taken fun i => i = .pipeReq ∨ (∃ b, i = .midiByte b) ∨ (∃ p0 p1 p2, i = .midiPacket p0 p1 p2) ∨ i = .midiPoll)

/-! ## Converter -/

/-- 40_converter.md R110: CVT.DEC.LJ is the arithmetic right shift by 8, a 24-bit value. -/
def Obligations.DecLjShiftsRight : Prop :=
  encode .cvtDecLj = 0x01000000 ∧
  ∀ (s : State) (w : Word), s.operand = .word w →
    exec .cvtDecLj s = .next { s with operand := .empty, result := some ⟨.ok, .sample (w.sshiftRight 8)⟩ } ∧
    -8388608 ≤ (w.sshiftRight 8).toInt ∧ (w.sshiftRight 8).toInt ≤ 8388607

/-- 40_converter.md R111: CVT.DEC.LO24 sign-extends the low 24 bits; bits 31 to 24 never matter. -/
def Obligations.DecLo24SignExtends : Prop :=
  encode .cvtDecLo24 = 0x02000000 ∧
  ∀ (s : State) (w : Word), s.operand = .word w →
    exec .cvtDecLo24 s
      = .next { s with operand := .empty, result := some ⟨.ok, .sample ((w.setWidth 24).signExtend 32)⟩ }

/-- 40_converter.md R112: CVT.ENC.LJ keeps the low 24 bits of the sample, moved to bits 31 to 8, the low byte zero. -/
def Obligations.EncLjKeepsLow24 : Prop :=
  encode .cvtEncLj = 0x03000000 ∧
  ∀ (s : State) (x : Word), s.operand = .word x →
    exec .cvtEncLj s = .next
      { s with operand := .empty, result := some ⟨.ok, .word (BitVec.ofNat 32 (x.toNat % 2 ^ 24 * 256))⟩ }

/-- 40_converter.md R113: CVT.ENC.LO24 keeps the low 24 bits of the sample, the high byte zero. -/
def Obligations.EncLo24KeepsLow24 : Prop :=
  encode .cvtEncLo24 = 0x04000000 ∧
  ∀ (s : State) (x : Word), s.operand = .word x →
    exec .cvtEncLo24 s = .next
      { s with operand := .empty, result := some ⟨.ok, .word (BitVec.ofNat 32 (x.toNat % 2 ^ 24))⟩ }

/-- 40_converter.md R120: both conventions round trip, in both directions. -/
def Obligations.ConventionsRoundTrip : Prop :=
  (∀ s : Word, -8388608 ≤ s.toInt → s.toInt ≤ 8388607 → decLj (encLj s) = s ∧ decLo24 (encLo24 s) = s) ∧
  (∀ w : Word, encLj (decLj w) = w &&& 0xFFFFFF00 ∧ encLo24 (decLo24 w) = w &&& 0x00FFFFFF)

/-- 40_converter.md R114, D62: CVT.TOF answers the nearest binary32 times 2^-23: a float that is exactly `s / 2^23` for
`|s| ≤ 2^24`, `+0.0` for 0; outside that range the sample is rounded to 24 significant bits, to nearest, ties to even, and
the scaling is exact: `k` is the weight of the last bit kept, `q` the significand. A float's value is counted in units of
2^-149. -/
def Obligations.TofScalesTheNearestFloat : Prop :=
  encode .cvtTof = 0x05000000 ∧
  ∀ (s : State) (x : Word), s.operand = .word x →
    ∃ y : F32, exec .cvtTof s = .next { s with operand := .empty, result := some ⟨.ok, .float y⟩ } ∧
      f32IsNan y = false ∧ (x = 0 → y = 0) ∧
      (x.toInt.natAbs ≤ 2 ^ 24 → f32Units y * 2 ^ 23 = x.toInt * 2 ^ 149) ∧
      (2 ^ 24 ≤ x.toInt.natAbs →
        ∃ k q : Nat, 2 ^ (k + 23) ≤ x.toInt.natAbs ∧ x.toInt.natAbs < 2 ^ (k + 24) ∧
          f32Units y * 2 ^ 23 = x.toInt.sign * (q * 2 ^ k) * 2 ^ 149 ∧
          2 * ((x.toInt.natAbs : Int) - q * 2 ^ k).natAbs ≤ 2 ^ k ∧
          (2 * ((x.toInt.natAbs : Int) - q * 2 ^ k).natAbs = 2 ^ k → q % 2 = 0))

/-- 40_converter.md R115: CVT.FROMF of a NaN is a draw, a value of the 24-bit range; at or above `CLAMP_HI` it is 8388599, at
or below -1.0 it is -8388608, and in between it is `real(x) * 2^23` truncated toward zero. That the draw of a NaN is
`Config.freeNan` of the counter `nanDraws`, which a NaN moves by one, is the model's choice (log 11, DESIGN CHOICE). -/
def Obligations.FromfClampsAndTruncates : Prop :=
  encode .cvtFromf = 0x06000000 ∧
  ∀ (s : State) (x : F32), s.operand = .word x →
    ∃ y : Word,
      exec .cvtFromf s = .next
        { s with
          operand := .empty
          nanDraws := if f32IsNan x then s.nanDraws + 1 else s.nanDraws
          result := some ⟨.ok, .sample y⟩ } ∧
      -8388608 ≤ y.toInt ∧ y.toInt ≤ 8388607 ∧
      (f32IsNan x = true → y = (Config.freeNan s.nanDraws).signExtend 32) ∧
      (f32IsNan x = false → f32Units 0x3F7FFFEF ≤ f32Units x → y.toInt = 8388599) ∧
      (f32IsNan x = false → f32Units x ≤ f32Units 0xBF800000 → y.toInt = -8388608) ∧
      (f32IsNan x = false → f32Units 0xBF800000 ≤ f32Units x → f32Units x ≤ f32Units 0x3F7FFFEF →
        y.toInt = (f32Units x * 2 ^ 23).tdiv (2 ^ 149))

/-- 40_converter.md R121: the scale law, exact up to 8388599 and saturated above. -/
def Obligations.ScaleLaw : Prop :=
  ∀ (s : Word) (k : Nat), -8388608 ≤ s.toInt → s.toInt ≤ 8388607 →
    (s.toInt ≤ 8388599 → fromFloat (toFloat s) k = s) ∧
    (8388600 ≤ s.toInt → (fromFloat (toFloat s) k).toInt = 8388599)

/-- 40_converter.md R122: CVT.TOF of a 24-bit sample `k` is `k * 2^-23`, in [-1, 1 - 2^-23]; CVT.FROMF of a number lies in
[-8388608, 8388599], and the second clamp of R115 never changes a value. -/
def Obligations.ConverterRanges : Prop :=
  (∀ s : Word, -8388608 ≤ s.toInt → s.toInt ≤ 8388607 →
    f32Units (toFloat s) = s.toInt * 2 ^ 126 ∧ -(2 ^ 149) ≤ f32Units (toFloat s) ∧ f32Units (toFloat s) ≤ (2 ^ 23 - 1) * 2 ^ 126) ∧
  (∀ (x : F32) (k : Nat), f32IsNan x = false →
    -8388608 ≤ (fromFloat x k).toInt ∧ (fromFloat x k).toInt ≤ 8388599 ∧
    clampI24 (scaleTrunc (clampFloat x)) = scaleTrunc (clampFloat x))

/-- 40_converter.md R123, R124: CVT.FROMF saturates and never wraps, is odd-symmetric on `[-CLAMP_HI, CLAMP_HI]`, and is not
at the ends. -/
def Obligations.FromfSaturatesAndIsOdd : Prop :=
  (∀ (x : F32) (k : Nat), f32IsNan x = false →
    (f32Units 0x3F7FFFEF ≤ f32Units x → fromFloat x k = fromFloat 0x3F7FFFEF k) ∧
    (f32Units x ≤ f32Units 0xBF800000 → fromFloat x k = fromFloat 0xBF800000 k) ∧
    (f32Mag x ≤ f32Mag 0x3F7FFFEF → (fromFloat (x ^^^ 0x80000000) k).toInt = -(fromFloat x k).toInt)) ∧
  (∀ k : Nat, (fromFloat 0x40000000 k).toInt = 8388599 ∧ (fromFloat 0x3F7FFFEF k).toInt = 8388599 ∧
    (fromFloat 0xC0A00000 k).toInt = -8388608 ∧ (fromFloat 0xBF800000 k).toInt = -8388608 ∧
    (fromFloat 0x3F800000 k).toInt = 8388599)

/-- 40_converter.md R116, R118: CVT.DEINT answers both channels, `F` floats each: the left-justified samples of the even and
of the odd words. A block of another length is `ILLEGAL_COMMAND`. -/
def Obligations.DeintSplitsTheBlock : Prop :=
  encode .cvtDeint = 0x07000000 ∧
  (∀ (s : State) (ws : List Word), s.operand = .block ws → ws.length ≠ s.cfg.n →
    exec .cvtDeint s = .next { s with operand := .empty, result := some ⟨.illegalCommand, .empty⟩ }) ∧
  ∀ (s : State) (ws : List Word), s.cfg.n % 2 = 0 → s.operand = .block ws → ws.length = s.cfg.n →
    ∃ l r : List F32,
      exec .cvtDeint s = .next { s with operand := .empty, result := some ⟨.ok, .channels l r⟩ } ∧
      l.length = s.cfg.n / 2 ∧ r.length = s.cfg.n / 2 ∧
      (∀ i, i < s.cfg.n / 2 → l[i]? = (ws[2 * i]?).map fun w => toFloat (w.sshiftRight 8)) ∧
      (∀ i, i < s.cfg.n / 2 → r[i]? = (ws[2 * i + 1]?).map fun w => toFloat (w.sshiftRight 8))

/-- 40_converter.md R117, R118: CVT.INT answers `N` words, left and right in alternation, each the left-justified sample of
its float. Each NaN takes a draw of its own; that the draws are counted by `nanDraws` (log 11) and numbered by the NaNs before
them, frame by frame, left before right (log 23, DEDUCED), is the model's choice. Channels that are not each `F` long are
`ILLEGAL_COMMAND`. -/
def Obligations.IntInterleavesTheChannels : Prop :=
  encode .cvtInt = 0x08000000 ∧
  (∀ (s : State) (l r : List F32), s.operand = .channels l r → (l.length ≠ s.cfg.n / 2 ∨ r.length ≠ s.cfg.n / 2) →
    exec .cvtInt s = .next { s with operand := .empty, result := some ⟨.illegalCommand, .empty⟩ }) ∧
  ∀ (s : State) (l r : List F32), s.cfg.n % 2 = 0 → s.operand = .channels l r →
    l.length = s.cfg.n / 2 → r.length = s.cfg.n / 2 →
    ∃ ws : List Word,
      exec .cvtInt s = .next
        { s with
          operand := .empty
          nanDraws := s.nanDraws + (l.countP f32IsNan + r.countP f32IsNan)
          result := some ⟨.ok, .block ws⟩ } ∧
      ws.length = s.cfg.n ∧ (∀ w ∈ ws, w.toNat % 256 = 0) ∧
      (∀ i x, l[i]? = some x → ws[2 * i]?
        = some ((fromFloat x (s.nanDraws + ((l.take i).countP f32IsNan + (r.take i).countP f32IsNan))) <<< 8)) ∧
      (∀ i x, r[i]? = some x → ws[2 * i + 1]?
        = some ((fromFloat x (s.nanDraws + ((l.take (i + 1)).countP f32IsNan + (r.take i).countP f32IsNan))) <<< 8))

/-- The frame of the converter family (40_converter.md, "No CVT command reads or writes block state"): whatever the payload,
only the ports and, where NaNs are drawn, the model's draw counter change. -/
def Obligations.ConverterTouchesNoBlockState : Prop :=
  ∀ (i : Instr) (s t : State),
    i ∈ [Instr.cvtDecLj, .cvtDecLo24, .cvtEncLj, .cvtEncLo24, .cvtTof, .cvtFromf, .cvtDeint, .cvtInt] →
    exec i s = .next t →
    t = { s with operand := .empty, result := t.result, nanDraws := t.nanDraws } ∧
    (i ≠ .cvtFromf → i ≠ .cvtInt → t.nanDraws = s.nanDraws) ∧
    ∀ b j, t.bufVal b j = s.bufVal b j ∧ t.written b j = s.written b j

/-! ## Arbiter -/

/-- 41_arbiter.md R151, R152: PIPE.RECV of a length other than `N` is logged and dropped: nothing but the log and the
model-only order tracker and fault record changes. PIPE.RECV of `N` words writes the slot that `activeIsA` selects (R153)
and both input float buffers, and leaves every other element, the selector and every other register as they were. -/
def Obligations.RecvDeliversOrDropsTheBlock : Prop :=
  encode .pipeRecv = 0x10000000 ∧
  (∀ (s : State) (len : Word) (ws : List Word),
    s.operand = .lenBlock len ws → ws.length = len.toNat → len.toNat ≠ s.cfg.n →
    exec .pipeRecv s = .next
      { s with
        operand := .empty
        phase := .awaitOut
        faults := if s.phase = .awaitIn then s.faults else faultAdd .orderViolation s.faults
        history := s.history ++ [.sizeMismatch .IN len]
        result := some ⟨.sizeMismatch, .empty⟩ }) ∧
  ∀ (s : State) (len : Word) (ws : List Word), s.cfg.n % 2 = 0 →
    s.operand = .lenBlock len ws → ws.length = len.toNat → len.toNat = s.cfg.n →
    let slot := if s.activeIsA then Slot.A else Slot.B
    ∃ bufs : Buffers,
      exec .pipeRecv s = .next
        { s with
          operand := .empty
          phase := .awaitOut
          faults := if s.phase = .awaitIn then s.faults else faultAdd .orderViolation s.faults
          bufs := bufs
          result := some ⟨.ok, .empty⟩ } ∧
      (∀ j, Buffer.read (bufs.get (.inSlot slot)) j
        = if j < s.cfg.n then ws[j]? else Buffer.read (s.bufs.get (.inSlot slot)) j) ∧
      (∀ i, Buffer.read (bufs.get .dspInL) i
        = if i < s.cfg.n / 2 then (ws[2 * i]?).map fun w => toFloat (w.sshiftRight 8)
          else Buffer.read (s.bufs.get .dspInL) i) ∧
      (∀ i, Buffer.read (bufs.get .dspInR) i
        = if i < s.cfg.n / 2 then (ws[2 * i + 1]?).map fun w => toFloat (w.sshiftRight 8)
          else Buffer.read (s.bufs.get .dspInR) i) ∧
      (∀ b, b ∉ [BufId.inSlot slot, .dspInL, .dspInR] → bufs.get b = s.bufs.get b)

/-- 41_arbiter.md R154 to R158, R161: PIPE.REQ of a length other than `N` produces nothing: no DSP call, no write, no flip.
PIPE.REQ of `N` words writes both output float buffers (from the DSP oracle, or from the input buffers in bypass), converts
them into the selected output slot, answers those `N` words and `framesWritten = N`, and flips the selector; every other
element and every other register stays. An unwritten input element is recorded as `UNWRITTEN_READ` (60_exceptions.md
R311). The model's choices in it: the draw counter `nanDraws` moves by the NaNs of the block (log 11), the draws are numbered
frame by frame, left before right (log 23, DEDUCED), and both input buffers make one record of the fault (log 14, DEDUCED). -/
def Obligations.ReqProducesTheBlockOrNothing : Prop :=
  encode .pipeReq = 0x11000000 ∧
  (∀ (s : State) (len : Word), s.operand = .word len → len.toNat ≠ s.cfg.n →
    exec .pipeReq s = .next
      { s with
        operand := .empty
        phase := .awaitIn
        faults := if s.phase = .awaitOut then s.faults else faultAdd .orderViolation s.faults
        history := s.history ++ [.sizeMismatch .OUT len]
        result := some ⟨.sizeMismatch, .request 0 none⟩ }) ∧
  ∀ (s : State) (len : Word), s.cfg.n % 2 = 0 → s.operand = .word len → len.toNat = s.cfg.n →
    let f := s.cfg.n / 2
    let slot := if s.activeIsA then Slot.A else Slot.B
    let inL := (List.range f).map (s.bufVal .dspInL)
    let inR := (List.range f).map (s.bufVal .dspInR)
    let out := dspOracle f s.dspState inL inR
    let lo := if s.cfg.dspBound then out.2.1 else inL
    let ro := if s.cfg.dspBound then out.2.2 else inR
    let block := interleaveWords lo ro s.nanDraws
    let ordered := if s.phase = .awaitOut then s.faults else faultAdd .orderViolation s.faults
    lo.length = f ∧ ro.length = f ∧ block.length = s.cfg.n ∧
    ∃ bufs : Buffers,
      exec .pipeReq s = .next
        { s with
          operand := .empty
          phase := .awaitIn
          activeIsA := !s.activeIsA
          faults :=
            if (∀ i, i < f → s.written .dspInL i = true) ∧ (∀ i, i < f → s.written .dspInR i = true) then ordered
            else faultAdd .unwrittenRead ordered
          dspState := if s.cfg.dspBound then out.1 else s.dspState
          history := if s.cfg.dspBound then s.history ++ [.dspProcess] else s.history
          nanDraws := s.nanDraws + (lo.countP f32IsNan + ro.countP f32IsNan)
          bufs := bufs
          result := some ⟨.ok, .request len (some block)⟩ } ∧
      (∀ j, Buffer.read (bufs.get (.outSlot slot)) j
        = if j < s.cfg.n then block[j]? else Buffer.read (s.bufs.get (.outSlot slot)) j) ∧
      (∀ i, Buffer.read (bufs.get .dspOutL) i = if i < f then lo[i]? else Buffer.read (s.bufs.get .dspOutL) i) ∧
      (∀ i, Buffer.read (bufs.get .dspOutR) i = if i < f then ro[i]? else Buffer.read (s.bufs.get .dspOutR) i) ∧
      (∀ b, b ∉ [BufId.outSlot slot, .dspOutL, .dspOutR] → bufs.get b = s.bufs.get b)

/-- 70_reset_and_hazards.md R342: a well-formed PIPE command sets `phase`, whatever its length, and records
`ORDER_VIOLATION` exactly when it comes out of its turn; it runs all the same. -/
def Obligations.PipeOrderIsTracked : Prop :=
  ∀ s : State,
    (Instr.pipeRecv.wellFormed s.cfg s.operand = true →
      ∃ t, exec .pipeRecv s = .next t ∧ t.phase = .awaitOut ∧
        (faultHas .orderViolation t.faults = true ↔ s.phase ≠ .awaitIn ∨ faultHas .orderViolation s.faults = true)) ∧
    (Instr.pipeReq.wellFormed s.cfg s.operand = true →
      ∃ t, exec .pipeReq s = .next t ∧ t.phase = .awaitIn ∧
        (faultHas .orderViolation t.faults = true ↔ s.phase ≠ .awaitOut ∨ faultHas .orderViolation s.faults = true))

/-- 41_arbiter.md R162: bypass fidelity. With no DSP, PIPE.RECV of `w` and then PIPE.REQ answers every word with its low byte
zero, but for the eight largest samples, which come back as `0x7FFFF700`. -/
def Obligations.BypassFidelity : Prop :=
  ∀ (s : State) (len : Word) (ws : List Word), s.cfg.dspBound = false → s.cfg.n % 2 = 0 →
    ws.length = s.cfg.n → len.toNat = s.cfg.n →
    ∃ t u out,
      exec .pipeRecv { s with operand := .lenBlock len ws } = .next t ∧
      exec .pipeReq { t with operand := .word len } = .next u ∧
      u.result = some ⟨.ok, .request len (some out)⟩ ∧ out.length = s.cfg.n ∧
      ∀ (j : Nat) (w : Word), ws[j]? = some w →
        out[j]? = some (if (w.sshiftRight 8).toInt ≤ 8388599 then w &&& 0xFFFFFF00 else 0x7FFFF700)

/-- 41_arbiter.md R159: in bypass, a dropped input block makes the next PIPE.REQ repeat the output of the one before, word for
word, if the input buffers were written (they hold no NaN, R122). -/
def Obligations.DroppedBlockRepeatsTheOutput : Prop :=
  ∀ (s : State) (len len' : Word) (ws : List Word), s.cfg.dspBound = false → s.cfg.n % 2 = 0 →
    len.toNat = s.cfg.n → len'.toNat ≠ s.cfg.n → ws.length = len'.toNat →
    nanFree s.bufs.dspInL = true → nanFree s.bufs.dspInR = true →
    (∀ i, i < s.cfg.n / 2 → s.written .dspInL i = true ∧ s.written .dspInR i = true) →
    ∃ t1 t2 t3,
      exec .pipeReq { s with operand := .word len } = .next t1 ∧
      exec .pipeRecv { t1 with operand := .lenBlock len' ws } = .next t2 ∧
      exec .pipeReq { t2 with operand := .word len } = .next t3 ∧
      t3.result = t1.result ∧ t3.activeIsA = s.activeIsA

/-- 41_arbiter.md R160, 70_reset_and_hazards.md R350: from construction, `m` cycles of a good PIPE.RECV and PIPE.REQ complete
without a fault, with or without a DSP, and leave the selector at A exactly when `m` is even: slots A, B, A, B in turn. -/
def Obligations.StrictAlternationVisitsSlotsInTurn : Prop :=
  ∀ (c : Config) (blocks : List (List Word)), c.legal = true → c.n < 2 ^ 32 →
    (∀ ws ∈ blocks, ws.length = c.n) →
    ∃ t,
      runFrom c (blocks.flatMap fun ws =>
        [Instr.pipeRecv.command (.lenBlock (BitVec.ofNat 32 c.n) ws),
          Instr.pipeReq.command (.word (BitVec.ofNat 32 c.n))]) = .next t ∧
      t.clean ∧ t.activeIsA = decide (blocks.length % 2 = 0) ∧ t.phase = .awaitIn ∧ t.pending = []

/-! ## Sequencer -/

/-- 42_codec_sequencer.md R200, R201: `WR(a, v)` is one transfer of the bytes `2a + v[8]` and `v[7:0]` to `BUS_ADDR`, and
succeeds exactly when the bus acknowledges two bytes. -/
def Obligations.RegisterWriteIsTwoBytes : Prop :=
  ∀ (s : State) (a : RegAddr) (v : RegVal), ∃ b0 b1 : Byte,
    s.wr a v = (decide ((busAnswer s.bus).1 = 2),
      { s with
        bus := (busAnswer s.bus).2
        history := s.history ++ [.busWrite s.cfg.busAddr b0 b1 (busAnswer s.bus).1] }) ∧
    b0.toNat = 2 * a.toNat + v.toNat / 256 ∧ b1.toNat = v.toNat % 256

/-- 42_codec_sequencer.md R210 to R220: the bring-up sequence, segment by segment, for each rate that has one, and none for
another rate; the first three segments, which CODEC.PROBE issues before it looks at the rate (R221), are those of any rate. -/
def Obligations.BringUpSegments : Prop :=
  ∀ (c : Config) (v : PerSide Byte),
    let seg123 : List RegWrite :=
      [⟨15, 0x000⟩] ++ flagTable c.pwrTable c.hasInput c.hasOutput ++ flagTable c.mixTable c.hasInput c.hasOutput
    let seg5678 : List RegWrite :=
      c.ctrlTable ++ c.ngTable ++
        [⟨c.outVol.headphone.left, 0x179⟩, ⟨c.outVol.headphone.right, 0x179⟩, ⟨c.outVol.speaker.left, 0x179⟩,
          ⟨c.outVol.speaker.right, 0x179⟩, c.spkBoost, ⟨c.involReg.left, 0x100 ||| v.left.setWidth 9⟩,
          ⟨c.involReg.right, 0x100 ||| v.right.setWidth 9⟩] ++ c.routeTable
    bringUpHead c = seg123 ∧
    bringUp c v =
      if c.sampleRate = 48000 then
        some (seg123 ++ [⟨4, 0x005⟩, ⟨52, 0x038⟩, ⟨53, 0x031⟩, ⟨54, 0x026⟩, ⟨55, 0x0E8⟩] ++ seg5678)
      else if c.sampleRate = 44100 then
        some (seg123 ++ [⟨4, c.pll44.clock⟩, ⟨52, c.pll44.intN⟩, ⟨53, c.pll44.kHigh⟩, ⟨54, c.pll44.kMid⟩,
          ⟨55, c.pll44.kLow⟩] ++ seg5678)
      else none

/-- 42_codec_sequencer.md R221, R216: CODEC.PROBE issues the bring-up sequence in order up to the first write not
acknowledged. It answers `OK` exactly when all of it was; at a rate without a PLL table it issues steps 1 to 3 only and
answers `RATE_UNSUPPORTED` when those were. Nothing else of the block changes, and the sequencer ends idle. -/
def Obligations.ProbeWalksTheBringUpTable : Prop :=
  encode .codecProbe = 0x20000000 ∧
  ∀ s : State, s.operand = .empty →
    let ws := (bringUp s.cfg s.inputVolume).getD (bringUpHead s.cfg)
    let acks := nextAcks ws.length s.bus
    exec .codecProbe s = .next
      { s with
        operand := .empty
        seq := .idle
        bus := busAfter (issuedWrites acks) s.bus
        history := s.history ++ writeEvents s.cfg ws acks
        result := some
          (if acks = List.replicate ws.length 2 then
            if s.cfg.sampleRate = 48000 ∨ s.cfg.sampleRate = 44100 then ⟨.ok, .flag true⟩
            else ⟨.rateUnsupported, .flag false⟩
          else ⟨.busWriteFailure, .flag false⟩) }

/-- 42_codec_sequencer.md R225: CODEC.ENJACK writes the Class-D register for Speaker and is a success without a write for
every other jack. -/
def Obligations.EnableJack : Prop :=
  (∀ j : Jack, encode (.codecEnjack j) = 0x21000000 ||| ((j.code.setWidth 32) <<< 8)) ∧
  ∀ (j : Jack) (s : State), s.operand = .empty →
    (j = .speaker → exec (.codecEnjack j) s = .next
      { s with
        operand := .empty
        bus := (busAnswer s.bus).2
        history := s.history ++ [writeEvent s.cfg ⟨s.cfg.classdReg, s.cfg.classdOn⟩ (busAnswer s.bus).1]
        result := some (if (busAnswer s.bus).1 = 2 then ⟨.ok, .flag true⟩ else ⟨.busWriteFailure, .flag false⟩) }) ∧
    (j ≠ .speaker → exec (.codecEnjack j) s = .next
      { s with operand := .empty, result := some ⟨.ok, .flag true⟩ })

/-- 42_codec_sequencer.md R226: CODEC.DISJACK writes the Class-D register for Speaker and is `UNSUPPORTED`, without a write,
for every other jack. -/
def Obligations.DisableJack : Prop :=
  (∀ j : Jack, encode (.codecDisjack j) = 0x22000000 ||| ((j.code.setWidth 32) <<< 8)) ∧
  ∀ (j : Jack) (s : State), s.operand = .empty →
    (j = .speaker → exec (.codecDisjack j) s = .next
      { s with
        operand := .empty
        bus := (busAnswer s.bus).2
        history := s.history ++ [writeEvent s.cfg ⟨s.cfg.classdReg, s.cfg.classdOff⟩ (busAnswer s.bus).1]
        result := some (if (busAnswer s.bus).1 = 2 then ⟨.ok, .flag true⟩ else ⟨.busWriteFailure, .flag false⟩) }) ∧
    (j ≠ .speaker → exec (.codecDisjack j) s = .next
      { s with operand := .empty, result := some ⟨.unsupported, .flag false⟩ })

/-- 42_codec_sequencer.md R228: CODEC.INFO answers the table of ranges; the input jacks are Microphone and DefaultIn
(R204). -/
def Obligations.InfoReportsTheRanges : Prop :=
  (∀ (c : Control) (j : Jack) (h : Channel), encode (.codecInfo c j h)
    = 0x23000000 ||| (c.code.setWidth 32 <<< 16) ||| (j.code.setWidth 32 <<< 8) ||| h.code.setWidth 32) ∧
  ∀ (c : Control) (j : Jack) (h : Channel) (s : State), s.operand = .empty →
    let input := j = .microphone ∨ j = .defaultIn
    exec (.codecInfo c j h) s = .next
      { s with
        operand := .empty
        result := some ⟨.ok,
          if (c = .mute ∧ input) ∨ (c = .alc ∧ input ∧ h = .all) then .info true 0 1
          else if c = .volume ∧ input then .info true (BitVec.ofInt 32 (-17)) 30
          else if c = .volume then .info true (BitVec.ofInt 32 (-73)) 6
          else .info false 0 0⟩ }

/-- 60_exceptions.md R303, R304, R314: a control that CODEC.INFO does not support is refused as `UNSUPPORTED` whatever the
value, and a supported one with a value outside its signed range as `RANGE_VIOLATION`; neither changes anything else. -/
def Obligations.SetRefusesBeforeAnyEffect : Prop :=
  (∀ (c : Control) (j : Jack) (h : Channel), encode (.codecSet c j h)
    = 0x24000000 ||| (c.code.setWidth 32 <<< 16) ||| (j.code.setWidth 32 <<< 8) ||| h.code.setWidth 32) ∧
  ∀ (c : Control) (j : Jack) (h : Channel) (s : State) (v : Word), s.operand = .word v →
    ((controlInfo c j h).1 = false → exec (.codecSet c j h) s = .next
      { s with operand := .empty, result := some ⟨.unsupported, .flag false⟩ }) ∧
    ((controlInfo c j h).1 = true → (v.toInt < (controlInfo c j h).2.1 ∨ (controlInfo c j h).2.2 < v.toInt) →
      exec (.codecSet c j h) s = .next
        { s with operand := .empty, result := some ⟨.rangeViolation, .flag false⟩ })

/-- 42_codec_sequencer.md R231, R234, R237: volume on an input jack. Each channel addressed takes the code in its low bits, keeps
its mute bit and clears bit 6, before any write and whatever the writes do; then its PGA register is written, Left before
Right, up to the first failure. -/
def Obligations.SetInputVolume : Prop :=
  ∀ (j : Jack) (h : Channel) (s : State) (v : Word),
    (j = .microphone ∨ j = .defaultIn) → s.operand = .word v → -17 ≤ v.toInt → v.toInt ≤ 30 →
    ∃ vol : PerSide Byte,
      (∀ c, sideOf vol c = if c ∈ chans h
        then (sideOf s.inputVolume c &&& 0x80) ||| BitVec.ofInt 8 ((v.toInt + 17) * 100 / 75)
        else sideOf s.inputVolume c) ∧
      let ws := (chans h).map fun c => (⟨sideOf s.cfg.involReg c, 0x100 ||| (sideOf vol c).setWidth 9⟩ : RegWrite)
      let acks := nextAcks ws.length s.bus
      exec (.codecSet .volume j h) s = .next
        { s with
          operand := .empty
          inputVolume := vol
          bus := busAfter (issuedWrites acks) s.bus
          history := s.history ++ writeEvents s.cfg ws acks
          result := some (if acks = List.replicate ws.length 2 then ⟨.ok, .flag true⟩
            else ⟨.busWriteFailure, .flag false⟩) }

/-- 42_codec_sequencer.md R232, R206, R237, R238: volume on an output jack writes `0x100 + (dB + 121)` to the register of each
channel addressed, Left before Right, up to the first failure, and changes no cache. -/
def Obligations.SetOutputVolume : Prop :=
  ∀ (o : OutJack) (j : Jack) (h : Channel) (s : State) (v : Word),
    outJack j = some o → s.operand = .word v → -73 ≤ v.toInt → v.toInt ≤ 6 →
    let ws := (chans h).map fun c => (⟨outVolReg s.cfg o c, BitVec.ofInt 9 (0x100 + (v.toInt + 121))⟩ : RegWrite)
    let acks := nextAcks ws.length s.bus
    exec (.codecSet .volume j h) s = .next
      { s with
        operand := .empty
        bus := busAfter (issuedWrites acks) s.bus
        history := s.history ++ writeEvents s.cfg ws acks
        result := some (if acks = List.replicate ws.length 2 then ⟨.ok, .flag true⟩
          else ⟨.busWriteFailure, .flag false⟩) }

/-- 42_codec_sequencer.md R235, R234, R237: mute on an input jack. Bit 7 of each channel addressed becomes the value, the
other seven bits stay; then its PGA register is written, Left before Right, up to the first failure. -/
def Obligations.SetMute : Prop :=
  ∀ (j : Jack) (h : Channel) (s : State) (v : Word),
    (j = .microphone ∨ j = .defaultIn) → s.operand = .word v → (v = 0 ∨ v = 1) →
    ∃ vol : PerSide Byte,
      (∀ c k, (sideOf vol c).getLsbD k = if c ∈ chans h ∧ k = 7 then v.getLsbD 0 else (sideOf s.inputVolume c).getLsbD k) ∧
      let ws := (chans h).map fun c => (⟨sideOf s.cfg.involReg c, 0x100 ||| (sideOf vol c).setWidth 9⟩ : RegWrite)
      let acks := nextAcks ws.length s.bus
      exec (.codecSet .mute j h) s = .next
        { s with
          operand := .empty
          inputVolume := vol
          bus := busAfter (issuedWrites acks) s.bus
          history := s.history ++ writeEvents s.cfg ws acks
          result := some (if acks = List.replicate ws.length 2 then ⟨.ok, .flag true⟩
            else ⟨.busWriteFailure, .flag false⟩) }

/-- 42_codec_sequencer.md R236, R234: ALC on an input jack with channel All. On: the right channel takes the left magnitude
(bits 5 to 0) and keeps its own mute bit, bit 6 zero; both PGA registers are written, then `ALC_ON_TABLE`. Off:
`ALC_OFF_TABLE`, and the cache stays. -/
def Obligations.SetAlc : Prop :=
  ∀ (j : Jack) (s : State) (v : Word),
    (j = .microphone ∨ j = .defaultIn) → s.operand = .word v → (v = 0 ∨ v = 1) →
    let left := s.inputVolume.left
    let right := if v = 1 then (s.inputVolume.right &&& 0x80) ||| (left &&& 0x3F) else s.inputVolume.right
    let ws := if v = 1 then
        [⟨s.cfg.involReg.left, 0x100 ||| left.setWidth 9⟩, ⟨s.cfg.involReg.right, 0x100 ||| right.setWidth 9⟩]
          ++ s.cfg.alcOnTable
      else s.cfg.alcOffTable
    let acks := nextAcks ws.length s.bus
    exec (.codecSet .alc j .all) s = .next
      { s with
        operand := .empty
        inputVolume := ⟨left, right⟩
        bus := busAfter (issuedWrites acks) s.bus
        history := s.history ++ writeEvents s.cfg ws acks
        result := some (if acks = List.replicate ws.length 2 then ⟨.ok, .flag true⟩
          else ⟨.busWriteFailure, .flag false⟩) }

/-- 60_exceptions.md R302, 42_codec_sequencer.md R237: of a sequence of writes, every one before the last issued was
acknowledged in both bytes, and where not all were issued the last one issued was not. -/
def Obligations.NoWriteAfterAFailure : Prop :=
  ∀ (ws : List RegWrite) (s : State),
    let acks := nextAcks ws.length s.bus
    let n := issuedWrites acks
    (s.wrAll ws).2 = { s with
      bus := busAfter n s.bus
      history := s.history ++ List.zipWith (writeEvent s.cfg) (ws.take n) (acks.take n) } ∧
    ((s.wrAll ws).1 = true ↔ ∀ a ∈ acks, a = 2) ∧ n ≤ ws.length ∧
    (∀ i, i + 1 < n → acks[i]? = some 2) ∧ (n < ws.length → ∃ a, a ≠ 2 ∧ 0 < n ∧ acks[n - 1]? = some a)

/-- 42_codec_sequencer.md R233, R238, R239: the input code of every dB in range is `(dB + 17) * 100 div 75`, which is
`floor(4(dB + 17)/3)`, at most 62 and never of the form `4m + 3`; the output code is `dB + 121`, between 0x30 and 0x7F; both
are monotone. -/
def Obligations.VolumeCodes : Prop :=
  (∀ dB : Int, -17 ≤ dB → dB ≤ 30 →
    ((inputCode dB).toNat : Int) = (dB + 17) * 100 / 75 ∧ ((inputCode dB).toNat : Int) = 4 * (dB + 17) / 3 ∧
    (inputCode dB).toNat ≤ 62 ∧ (inputCode dB).toNat % 4 ≠ 3) ∧
  (∀ dB : Int, -73 ≤ dB → dB ≤ 6 →
    ((outputCode dB).toNat : Int) = dB + 73 + 0x30 ∧ 0x30 ≤ (outputCode dB).toNat ∧ (outputCode dB).toNat ≤ 0x7F) ∧
  (∀ a b : Int, -17 ≤ a → a ≤ b → b ≤ 30 → (inputCode a).toNat ≤ (inputCode b).toNat) ∧
  (∀ a b : Int, -73 ≤ a → a ≤ b → b ≤ 6 → (outputCode a).toNat ≤ (outputCode b).toNat)

/-- 42_codec_sequencer.md R240, for any unmuted cache: muting and unmuting an input jack restores the cache, whatever the bus
answers in between. -/
def Obligations.MuteRoundTripRestoresTheCache : Prop :=
  ∀ (j : Jack) (h : Channel) (s : State), (j = .microphone ∨ j = .defaultIn) →
    (∀ c ∈ chans h, (sideOf s.inputVolume c).getLsbD 7 = false) →
    ∃ t u,
      exec (.codecSet .mute j h) { s with operand := .word 1 } = .next t ∧
      (∀ c ∈ chans h, (sideOf t.inputVolume c).getLsbD 7 = true) ∧
      exec (.codecSet .mute j h) { t with operand := .word 0 } = .next u ∧
      u.inputVolume = s.inputVolume

/-- The frame of the sequencer family (42_codec_sequencer.md, 10_state.md R41): a CODEC command changes at most the ports, the
bus, the history and the sequencer's position, CODEC.SET the cache besides; CODEC.INFO only the ports. -/
def Obligations.SequencerFrame : Prop :=
  ∀ (i : Instr) (s t : State) (c : Control) (j : Jack) (h : Channel),
    i ∈ [Instr.codecProbe, .codecEnjack j, .codecDisjack j, .codecInfo c j h, .codecSet c j h] →
    exec i s = .next t →
    t = { s with
      operand := .empty
      result := t.result
      bus := t.bus
      history := t.history
      seq := t.seq
      inputVolume := t.inputVolume } ∧
    (i ≠ .codecSet c j h → t.inputVolume = s.inputVolume) ∧ (i ≠ .codecProbe → t.seq = s.seq) ∧
    (i = .codecInfo c j h → t.bus = s.bus ∧ t.history = s.history) ∧
    ∀ b k, t.bufVal b k = s.bufVal b k ∧ t.written b k = s.written b k

/-! ## Parser -/

/-- 43_midi.md R252: one byte, in every state of the parser. A status byte in state 1 or 2 first discards the partial message
and is then tried in state 0. That the history gains a desync event there is the model's choice (log 5, DESIGN CHOICE), which
60_exceptions.md R307 leaves free: "A model may record a `Desync` event in its history as an observation aid". -/
def Obligations.MidiByteStateMachine : Prop :=
  (∀ b : Byte, encode (.midiByte b) = 0x30000000 ||| b.setWidth 32) ∧
  ∀ (b : Byte) (s : State), s.operand = .empty →
    let accepted := b.toNat / 16 = 0x8 ∨ b.toNat / 16 = 0x9 ∨ b.toNat / 16 = 0xB
    let done : Option Response := some ⟨.ok, .empty⟩
    let seen := if s.mstate = .awaitingStatus then s.history else s.history ++ [.desync b]
    (128 ≤ b.toNat → accepted → exec (.midiByte b) s = .next
      { s with
        operand := .empty
        result := done
        history := seen
        mstate := .awaitingData1
        mbuf := { s.mbuf with b0 := b } }) ∧
    (128 ≤ b.toNat → ¬ accepted → exec (.midiByte b) s = .next
      { s with operand := .empty, result := done, history := seen, mstate := .awaitingStatus }) ∧
    (b.toNat < 128 → s.mstate = .awaitingStatus → exec (.midiByte b) s = .next
      { s with operand := .empty, result := done }) ∧
    (b.toNat < 128 → s.mstate = .awaitingData1 → exec (.midiByte b) s = .next
      { s with operand := .empty, result := done, mstate := .awaitingData2, mbuf := { s.mbuf with b1 := b } }) ∧
    (b.toNat < 128 → s.mstate = .awaitingData2 → exec (.midiByte b) s = .next
      { (s.dispatch s.mbuf.b0 s.mbuf.b1 b) with
        operand := .empty, result := done, mstate := .awaitingStatus, mbuf := { s.mbuf with b2 := b } })

/-- 43_midi.md R252 to R254: with a DSP bound, an accepted status byte and two data bytes make exactly one sink call, whatever
the parser was in the middle of, and leave the parser waiting for a status byte. -/
def Obligations.ThreeBytesMakeOneMessage : Prop :=
  ∀ (st d1 d2 : Byte) (s : State), s.operand = .empty → s.cfg.dspBound = true →
    (st.toNat / 16 = 0x8 ∨ st.toNat / 16 = 0x9 ∨ st.toNat / 16 = 0xB) → d1.toNat < 128 → d2.toNat < 128 →
    ∃ t1 t2 t3 es,
      exec (.midiByte st) s = .next t1 ∧ exec (.midiByte d1) t1 = .next t2 ∧ exec (.midiByte d2) t2 = .next t3 ∧
      t3.mstate = .awaitingStatus ∧ (∀ c, Event.sink c ∉ es) ∧
      t3.history = s.history ++ es ++ [.sink ⟨3, 0,
        if st.toNat / 16 = 0x9 ∧ d2 = 0 then 0x80 else BitVec.ofNat 8 (st.toNat / 16 * 16),
        BitVec.ofNat 8 (st.toNat % 16), d1, d2⟩]

/-- 43_midi.md R253 to R255, R258, R259: what a dispatch does, by the high nibble of the status byte. -/
def Obligations.DispatchTable : Prop :=
  ∀ (st d1 d2 : Byte) (s : State),
    let t := st.toNat / 16
    let ch := BitVec.ofNat 8 (st.toNat % 16)
    let call (c : SinkCall) : State :=
      { s with
        dspState := { s.dspState with code := Config.dspSink s.dspState.code c }
        history := s.history ++ [.sink c] }
    (s.cfg.dspBound = false → s.dispatch st d1 d2 = s) ∧
    (s.cfg.dspBound = true →
      s.dispatch st d1 d2 =
        if t = 0x8 ∨ (t = 0x9 ∧ d2 = 0) then call ⟨3, 0, 0x80, ch, d1, d2⟩
        else if t = 0x9 then call ⟨3, 0, 0x90, ch, d1, d2⟩
        else if t = 0xB then call ⟨3, 0, 0xB0, ch, d1, d2⟩
        else if t = 0xC then call ⟨2, 0, 0xC0, ch, d1, 0⟩
        else if t = 0xD then call ⟨2, 0, 0xD0, ch, d1, 0⟩
        else if t = 0xE then call ⟨3, 0, 0xE0, ch, d1, d2⟩
        else s)

/-- 43_midi.md R256: MIDI.PACKET dispatches its three bytes unchecked and leaves the byte path's state alone. -/
def Obligations.MidiPacketDispatches : Prop :=
  (∀ p0 p1 p2 : Byte, encode (.midiPacket p0 p1 p2)
    = 0x31000000 ||| (p0.setWidth 32 <<< 16) ||| (p1.setWidth 32 <<< 8) ||| p2.setWidth 32) ∧
  ∀ (p0 p1 p2 : Byte) (s : State), s.operand = .empty →
    exec (.midiPacket p0 p1 p2) s = .next
      { (s.dispatch p0 p1 p2) with operand := .empty, result := some ⟨.ok, .empty⟩ } ∧
    (s.dispatch p0 p1 p2).mstate = s.mstate ∧ (s.dispatch p0 p1 p2).mbuf = s.mbuf

/-- 43_midi.md R257: MIDI.POLL reads at most `MIDI_POLL_MAX` bytes from the source and leaves the block as the MIDI.BYTE
commands of those bytes, in order, would; the result is how many were read, modulo 2^32 by the model's choice (log 19, DESIGN
CHOICE). -/
def Obligations.PollRunsMidiByteOnEachByte : Prop :=
  encode .midiPoll = 0x32000000 ∧
  ∀ s : State, s.operand = .empty →
    let read := srcAnswer s.cfg.midiPollMax s.src
    read.1.length ≤ s.cfg.midiPollMax ∧
    ∃ u,
      read.1.foldl
        (fun (o : Host.Outcome State Fault Refusal) b =>
          match o with
          | .next x => exec (.midiByte b) x
          | .fault r => .fault r
          | .refused r => .refused r)
        (.next { s with src := read.2 }) = .next u ∧
      exec .midiPoll s = .next
        { u with operand := .empty, result := some ⟨.ok, .bytesRead (BitVec.ofNat 32 read.1.length)⟩ }

/-- 43_midi.md R260, R258: from a state of the invariant, the byte path (MIDI.BYTE, and MIDI.POLL that runs it) forwards only
three-byte messages of types 0x80, 0x90 and 0xB0, with timestamp 0 and data bytes below 128. -/
def Obligations.BytePathForwardsThreeByteMessages : Prop :=
  ∀ (i : Instr) (s t : State) (b : Byte), i = .midiByte b ∨ i = .midiPoll → s.Inv → exec i s = .next t →
    ∃ es, t.history = s.history ++ es ∧
      ∀ c, Event.sink c ∈ es → c.count = 3 ∧ c.ts = 0 ∧ (c.type = 0x80 ∨ c.type = 0x90 ∨ c.type = 0xB0) ∧
        c.d1.toNat < 128 ∧ c.d2.toNat < 128

/-- The frame of the parser family (43_midi.md, 10_state.md R45): a MIDI command changes at most the ports, the parser's state,
the DSP's state and the history, MIDI.POLL the byte source besides; MIDI.PACKET leaves the parser's state. With no DSP bound the
DSP's state stays and no sink call is among the calls that the command appends to the history (R259). -/
def Obligations.ParserFrame : Prop :=
  ∀ (i : Instr) (s t : State) (b p0 p1 p2 : Byte),
    i ∈ [Instr.midiByte b, .midiPacket p0 p1 p2, .midiPoll] → exec i s = .next t →
    t = { s with
      operand := .empty
      result := t.result
      mstate := t.mstate
      mbuf := t.mbuf
      dspState := t.dspState
      history := t.history
      src := t.src } ∧
    (i = .midiPacket p0 p1 p2 → t.mstate = s.mstate ∧ t.mbuf = s.mbuf) ∧ (i ≠ .midiPoll → t.src = s.src) ∧
    (s.cfg.dspBound = false → t.dspState = s.dspState) ∧
    (∃ es, t.history = s.history ++ es ∧ (s.cfg.dspBound = false → ∀ c, Event.sink c ∉ es)) ∧
    ∀ k j, t.bufVal k j = s.bufVal k j ∧ t.written k j = s.written k j

/-- 60_exceptions.md R325, 70_reset_and_hazards.md R347: with no DSP bound, a MIDI byte and a PIPE command commute on all of the
block's state, whatever the payload: only the order of the history and the last result tell which came first. -/
def Obligations.ParserAndArbiterCommute : Prop :=
  ∀ (s : State) (b : Byte) (i : Instr) (p : Payload), i = .pipeRecv ∨ i = .pipeReq → s.cfg.dspBound = false →
    ∃ t1 t2 u1 u2,
      exec (.midiByte b) { s with operand := .empty } = .next t1 ∧ exec i { t1 with operand := p } = .next t2 ∧
      exec i { s with operand := p } = .next u1 ∧ exec (.midiByte b) { u1 with operand := .empty } = .next u2 ∧
      u2 = { t2 with result := u2.result, history := u2.history } ∧
      u2.history.Perm t2.history

/-! ## The DSP's setup -/

/-- 70_reset_and_hazards.md R345 step 2, 00_scope.md R9, 41_arbiter.md R163: the DSP of a block that has one is constructed
with `(SAMPLE_RATE, F, 2, 2)` and bound once to the block's float buffers; a block without one has no setup; and no step
changes it. That the setup stands in the DSP's state is how the model renders it (log 28). -/
def Obligations.DspIsBuiltFromTheConfiguration : Prop :=
  (∀ c : Config, (State.resetWith c).dspState.setup =
    if c.dspBound then some ⟨c.sampleRate, c.n / 2, 2, 2, .dspOutL, .dspOutR, .dspInL, .dspInR⟩ else none) ∧
  ∀ s t : State, step s = .next t → t.dspState.setup = s.dspState.setup
end

