-- ==== Sys2Proof/Laws/State.lean ====
section
/-! SUPPORT. One lemma per field of the state per named update. -/

namespace Sys2Proof.Machine

section
variable (s : State) (k : Fault)
@[simp] theorem State.raise_cfg : (s.raise k).cfg = s.cfg := rfl
@[simp] theorem State.raise_pending : (s.raise k).pending = s.pending := rfl
@[simp] theorem State.raise_operand : (s.raise k).operand = s.operand := rfl
@[simp] theorem State.raise_result : (s.raise k).result = s.result := rfl
@[simp] theorem State.raise_activeIsA : (s.raise k).activeIsA = s.activeIsA := rfl
@[simp] theorem State.raise_bufs : (s.raise k).bufs = s.bufs := rfl
@[simp] theorem State.raise_phase : (s.raise k).phase = s.phase := rfl
@[simp] theorem State.raise_dspState : (s.raise k).dspState = s.dspState := rfl
@[simp] theorem State.raise_inputVolume : (s.raise k).inputVolume = s.inputVolume := rfl
@[simp] theorem State.raise_seq : (s.raise k).seq = s.seq := rfl
@[simp] theorem State.raise_mstate : (s.raise k).mstate = s.mstate := rfl
@[simp] theorem State.raise_mbuf : (s.raise k).mbuf = s.mbuf := rfl
@[simp] theorem State.raise_faults : (s.raise k).faults = faultAdd k s.faults := rfl
@[simp] theorem State.raise_history : (s.raise k).history = s.history := rfl
@[simp] theorem State.raise_bus : (s.raise k).bus = s.bus := rfl
@[simp] theorem State.raise_src : (s.raise k).src = s.src := rfl
@[simp] theorem State.raise_nanDraws : (s.raise k).nanDraws = s.nanDraws := rfl
end

section
variable (s : State) (p : Phase)
@[simp] theorem State.setPhase_cfg : (s.setPhase p).cfg = s.cfg := rfl
@[simp] theorem State.setPhase_pending : (s.setPhase p).pending = s.pending := rfl
@[simp] theorem State.setPhase_operand : (s.setPhase p).operand = s.operand := rfl
@[simp] theorem State.setPhase_result : (s.setPhase p).result = s.result := rfl
@[simp] theorem State.setPhase_activeIsA : (s.setPhase p).activeIsA = s.activeIsA := rfl
@[simp] theorem State.setPhase_bufs : (s.setPhase p).bufs = s.bufs := rfl
@[simp] theorem State.setPhase_phase : (s.setPhase p).phase = p := rfl
@[simp] theorem State.setPhase_dspState : (s.setPhase p).dspState = s.dspState := rfl
@[simp] theorem State.setPhase_inputVolume : (s.setPhase p).inputVolume = s.inputVolume := rfl
@[simp] theorem State.setPhase_seq : (s.setPhase p).seq = s.seq := rfl
@[simp] theorem State.setPhase_mstate : (s.setPhase p).mstate = s.mstate := rfl
@[simp] theorem State.setPhase_mbuf : (s.setPhase p).mbuf = s.mbuf := rfl
@[simp] theorem State.setPhase_faults : (s.setPhase p).faults = s.faults := rfl
@[simp] theorem State.setPhase_history : (s.setPhase p).history = s.history := rfl
@[simp] theorem State.setPhase_bus : (s.setPhase p).bus = s.bus := rfl
@[simp] theorem State.setPhase_src : (s.setPhase p).src = s.src := rfl
@[simp] theorem State.setPhase_nanDraws : (s.setPhase p).nanDraws = s.nanDraws := rfl
end

section
variable (s : State)
@[simp] theorem State.flip_cfg : (s.flip).cfg = s.cfg := rfl
@[simp] theorem State.flip_pending : (s.flip).pending = s.pending := rfl
@[simp] theorem State.flip_operand : (s.flip).operand = s.operand := rfl
@[simp] theorem State.flip_result : (s.flip).result = s.result := rfl
@[simp] theorem State.flip_activeIsA : (s.flip).activeIsA = !s.activeIsA := rfl
@[simp] theorem State.flip_bufs : (s.flip).bufs = s.bufs := rfl
@[simp] theorem State.flip_phase : (s.flip).phase = s.phase := rfl
@[simp] theorem State.flip_dspState : (s.flip).dspState = s.dspState := rfl
@[simp] theorem State.flip_inputVolume : (s.flip).inputVolume = s.inputVolume := rfl
@[simp] theorem State.flip_seq : (s.flip).seq = s.seq := rfl
@[simp] theorem State.flip_mstate : (s.flip).mstate = s.mstate := rfl
@[simp] theorem State.flip_mbuf : (s.flip).mbuf = s.mbuf := rfl
@[simp] theorem State.flip_faults : (s.flip).faults = s.faults := rfl
@[simp] theorem State.flip_history : (s.flip).history = s.history := rfl
@[simp] theorem State.flip_bus : (s.flip).bus = s.bus := rfl
@[simp] theorem State.flip_src : (s.flip).src = s.src := rfl
@[simp] theorem State.flip_nanDraws : (s.flip).nanDraws = s.nanDraws := rfl
end

section
variable (s : State) (b : BufId) (x : Buffer)
@[simp] theorem State.setBuf_cfg : (s.setBuf b x).cfg = s.cfg := rfl
@[simp] theorem State.setBuf_pending : (s.setBuf b x).pending = s.pending := rfl
@[simp] theorem State.setBuf_operand : (s.setBuf b x).operand = s.operand := rfl
@[simp] theorem State.setBuf_result : (s.setBuf b x).result = s.result := rfl
@[simp] theorem State.setBuf_activeIsA : (s.setBuf b x).activeIsA = s.activeIsA := rfl
@[simp] theorem State.setBuf_bufs : (s.setBuf b x).bufs = s.bufs.set b x := rfl
@[simp] theorem State.setBuf_phase : (s.setBuf b x).phase = s.phase := rfl
@[simp] theorem State.setBuf_dspState : (s.setBuf b x).dspState = s.dspState := rfl
@[simp] theorem State.setBuf_inputVolume : (s.setBuf b x).inputVolume = s.inputVolume := rfl
@[simp] theorem State.setBuf_seq : (s.setBuf b x).seq = s.seq := rfl
@[simp] theorem State.setBuf_mstate : (s.setBuf b x).mstate = s.mstate := rfl
@[simp] theorem State.setBuf_mbuf : (s.setBuf b x).mbuf = s.mbuf := rfl
@[simp] theorem State.setBuf_faults : (s.setBuf b x).faults = s.faults := rfl
@[simp] theorem State.setBuf_history : (s.setBuf b x).history = s.history := rfl
@[simp] theorem State.setBuf_bus : (s.setBuf b x).bus = s.bus := rfl
@[simp] theorem State.setBuf_src : (s.setBuf b x).src = s.src := rfl
@[simp] theorem State.setBuf_nanDraws : (s.setBuf b x).nanDraws = s.nanDraws := rfl
end

section
variable (s : State) (e : Event)
@[simp] theorem State.emit_cfg : (s.emit e).cfg = s.cfg := rfl
@[simp] theorem State.emit_pending : (s.emit e).pending = s.pending := rfl
@[simp] theorem State.emit_operand : (s.emit e).operand = s.operand := rfl
@[simp] theorem State.emit_result : (s.emit e).result = s.result := rfl
@[simp] theorem State.emit_activeIsA : (s.emit e).activeIsA = s.activeIsA := rfl
@[simp] theorem State.emit_bufs : (s.emit e).bufs = s.bufs := rfl
@[simp] theorem State.emit_phase : (s.emit e).phase = s.phase := rfl
@[simp] theorem State.emit_dspState : (s.emit e).dspState = s.dspState := rfl
@[simp] theorem State.emit_inputVolume : (s.emit e).inputVolume = s.inputVolume := rfl
@[simp] theorem State.emit_seq : (s.emit e).seq = s.seq := rfl
@[simp] theorem State.emit_mstate : (s.emit e).mstate = s.mstate := rfl
@[simp] theorem State.emit_mbuf : (s.emit e).mbuf = s.mbuf := rfl
@[simp] theorem State.emit_faults : (s.emit e).faults = s.faults := rfl
@[simp] theorem State.emit_history : (s.emit e).history = s.history ++ [e] := rfl
@[simp] theorem State.emit_bus : (s.emit e).bus = s.bus := rfl
@[simp] theorem State.emit_src : (s.emit e).src = s.src := rfl
@[simp] theorem State.emit_nanDraws : (s.emit e).nanDraws = s.nanDraws := rfl
end

section
variable (s : State) (st : Status) (p : ResultPayload)
@[simp] theorem State.respond_cfg : (s.respond st p).cfg = s.cfg := rfl
@[simp] theorem State.respond_pending : (s.respond st p).pending = s.pending := rfl
@[simp] theorem State.respond_operand : (s.respond st p).operand = .empty := rfl
@[simp] theorem State.respond_result : (s.respond st p).result = some ⟨st, p⟩ := rfl
@[simp] theorem State.respond_activeIsA : (s.respond st p).activeIsA = s.activeIsA := rfl
@[simp] theorem State.respond_bufs : (s.respond st p).bufs = s.bufs := rfl
@[simp] theorem State.respond_phase : (s.respond st p).phase = s.phase := rfl
@[simp] theorem State.respond_dspState : (s.respond st p).dspState = s.dspState := rfl
@[simp] theorem State.respond_inputVolume : (s.respond st p).inputVolume = s.inputVolume := rfl
@[simp] theorem State.respond_seq : (s.respond st p).seq = s.seq := rfl
@[simp] theorem State.respond_mstate : (s.respond st p).mstate = s.mstate := rfl
@[simp] theorem State.respond_mbuf : (s.respond st p).mbuf = s.mbuf := rfl
@[simp] theorem State.respond_faults : (s.respond st p).faults = s.faults := rfl
@[simp] theorem State.respond_history : (s.respond st p).history = s.history := rfl
@[simp] theorem State.respond_bus : (s.respond st p).bus = s.bus := rfl
@[simp] theorem State.respond_src : (s.respond st p).src = s.src := rfl
@[simp] theorem State.respond_nanDraws : (s.respond st p).nanDraws = s.nanDraws := rfl
end

section
variable (s : State) (p : Payload) (cs : List Command)
@[simp] theorem State.accept_cfg : (s.accept p cs).cfg = s.cfg := rfl
@[simp] theorem State.accept_pending : (s.accept p cs).pending = cs := rfl
@[simp] theorem State.accept_operand : (s.accept p cs).operand = p := rfl
@[simp] theorem State.accept_result : (s.accept p cs).result = s.result := rfl
@[simp] theorem State.accept_activeIsA : (s.accept p cs).activeIsA = s.activeIsA := rfl
@[simp] theorem State.accept_bufs : (s.accept p cs).bufs = s.bufs := rfl
@[simp] theorem State.accept_phase : (s.accept p cs).phase = s.phase := rfl
@[simp] theorem State.accept_dspState : (s.accept p cs).dspState = s.dspState := rfl
@[simp] theorem State.accept_inputVolume : (s.accept p cs).inputVolume = s.inputVolume := rfl
@[simp] theorem State.accept_seq : (s.accept p cs).seq = s.seq := rfl
@[simp] theorem State.accept_mstate : (s.accept p cs).mstate = s.mstate := rfl
@[simp] theorem State.accept_mbuf : (s.accept p cs).mbuf = s.mbuf := rfl
@[simp] theorem State.accept_faults : (s.accept p cs).faults = s.faults := rfl
@[simp] theorem State.accept_history : (s.accept p cs).history = s.history := rfl
@[simp] theorem State.accept_bus : (s.accept p cs).bus = s.bus := rfl
@[simp] theorem State.accept_src : (s.accept p cs).src = s.src := rfl
@[simp] theorem State.accept_nanDraws : (s.accept p cs).nanDraws = s.nanDraws := rfl
end

section
variable (s : State) (b : BusAgent)
@[simp] theorem State.setBus_cfg : (s.setBus b).cfg = s.cfg := rfl
@[simp] theorem State.setBus_pending : (s.setBus b).pending = s.pending := rfl
@[simp] theorem State.setBus_operand : (s.setBus b).operand = s.operand := rfl
@[simp] theorem State.setBus_result : (s.setBus b).result = s.result := rfl
@[simp] theorem State.setBus_activeIsA : (s.setBus b).activeIsA = s.activeIsA := rfl
@[simp] theorem State.setBus_bufs : (s.setBus b).bufs = s.bufs := rfl
@[simp] theorem State.setBus_phase : (s.setBus b).phase = s.phase := rfl
@[simp] theorem State.setBus_dspState : (s.setBus b).dspState = s.dspState := rfl
@[simp] theorem State.setBus_inputVolume : (s.setBus b).inputVolume = s.inputVolume := rfl
@[simp] theorem State.setBus_seq : (s.setBus b).seq = s.seq := rfl
@[simp] theorem State.setBus_mstate : (s.setBus b).mstate = s.mstate := rfl
@[simp] theorem State.setBus_mbuf : (s.setBus b).mbuf = s.mbuf := rfl
@[simp] theorem State.setBus_faults : (s.setBus b).faults = s.faults := rfl
@[simp] theorem State.setBus_history : (s.setBus b).history = s.history := rfl
@[simp] theorem State.setBus_bus : (s.setBus b).bus = b := rfl
@[simp] theorem State.setBus_src : (s.setBus b).src = s.src := rfl
@[simp] theorem State.setBus_nanDraws : (s.setBus b).nanDraws = s.nanDraws := rfl
end

section
variable (s : State) (r : SrcAgent)
@[simp] theorem State.setSrc_cfg : (s.setSrc r).cfg = s.cfg := rfl
@[simp] theorem State.setSrc_pending : (s.setSrc r).pending = s.pending := rfl
@[simp] theorem State.setSrc_operand : (s.setSrc r).operand = s.operand := rfl
@[simp] theorem State.setSrc_result : (s.setSrc r).result = s.result := rfl
@[simp] theorem State.setSrc_activeIsA : (s.setSrc r).activeIsA = s.activeIsA := rfl
@[simp] theorem State.setSrc_bufs : (s.setSrc r).bufs = s.bufs := rfl
@[simp] theorem State.setSrc_phase : (s.setSrc r).phase = s.phase := rfl
@[simp] theorem State.setSrc_dspState : (s.setSrc r).dspState = s.dspState := rfl
@[simp] theorem State.setSrc_inputVolume : (s.setSrc r).inputVolume = s.inputVolume := rfl
@[simp] theorem State.setSrc_seq : (s.setSrc r).seq = s.seq := rfl
@[simp] theorem State.setSrc_mstate : (s.setSrc r).mstate = s.mstate := rfl
@[simp] theorem State.setSrc_mbuf : (s.setSrc r).mbuf = s.mbuf := rfl
@[simp] theorem State.setSrc_faults : (s.setSrc r).faults = s.faults := rfl
@[simp] theorem State.setSrc_history : (s.setSrc r).history = s.history := rfl
@[simp] theorem State.setSrc_bus : (s.setSrc r).bus = s.bus := rfl
@[simp] theorem State.setSrc_src : (s.setSrc r).src = r := rfl
@[simp] theorem State.setSrc_nanDraws : (s.setSrc r).nanDraws = s.nanDraws := rfl
end

section
variable (s : State) (d : DspState)
@[simp] theorem State.setDsp_cfg : (s.setDsp d).cfg = s.cfg := rfl
@[simp] theorem State.setDsp_pending : (s.setDsp d).pending = s.pending := rfl
@[simp] theorem State.setDsp_operand : (s.setDsp d).operand = s.operand := rfl
@[simp] theorem State.setDsp_result : (s.setDsp d).result = s.result := rfl
@[simp] theorem State.setDsp_activeIsA : (s.setDsp d).activeIsA = s.activeIsA := rfl
@[simp] theorem State.setDsp_bufs : (s.setDsp d).bufs = s.bufs := rfl
@[simp] theorem State.setDsp_phase : (s.setDsp d).phase = s.phase := rfl
@[simp] theorem State.setDsp_dspState : (s.setDsp d).dspState = d := rfl
@[simp] theorem State.setDsp_inputVolume : (s.setDsp d).inputVolume = s.inputVolume := rfl
@[simp] theorem State.setDsp_seq : (s.setDsp d).seq = s.seq := rfl
@[simp] theorem State.setDsp_mstate : (s.setDsp d).mstate = s.mstate := rfl
@[simp] theorem State.setDsp_mbuf : (s.setDsp d).mbuf = s.mbuf := rfl
@[simp] theorem State.setDsp_faults : (s.setDsp d).faults = s.faults := rfl
@[simp] theorem State.setDsp_history : (s.setDsp d).history = s.history := rfl
@[simp] theorem State.setDsp_bus : (s.setDsp d).bus = s.bus := rfl
@[simp] theorem State.setDsp_src : (s.setDsp d).src = s.src := rfl
@[simp] theorem State.setDsp_nanDraws : (s.setDsp d).nanDraws = s.nanDraws := rfl
end

section
variable (s : State) (k : Nat)
@[simp] theorem State.setDraws_cfg : (s.setDraws k).cfg = s.cfg := rfl
@[simp] theorem State.setDraws_pending : (s.setDraws k).pending = s.pending := rfl
@[simp] theorem State.setDraws_operand : (s.setDraws k).operand = s.operand := rfl
@[simp] theorem State.setDraws_result : (s.setDraws k).result = s.result := rfl
@[simp] theorem State.setDraws_activeIsA : (s.setDraws k).activeIsA = s.activeIsA := rfl
@[simp] theorem State.setDraws_bufs : (s.setDraws k).bufs = s.bufs := rfl
@[simp] theorem State.setDraws_phase : (s.setDraws k).phase = s.phase := rfl
@[simp] theorem State.setDraws_dspState : (s.setDraws k).dspState = s.dspState := rfl
@[simp] theorem State.setDraws_inputVolume : (s.setDraws k).inputVolume = s.inputVolume := rfl
@[simp] theorem State.setDraws_seq : (s.setDraws k).seq = s.seq := rfl
@[simp] theorem State.setDraws_mstate : (s.setDraws k).mstate = s.mstate := rfl
@[simp] theorem State.setDraws_mbuf : (s.setDraws k).mbuf = s.mbuf := rfl
@[simp] theorem State.setDraws_faults : (s.setDraws k).faults = s.faults := rfl
@[simp] theorem State.setDraws_history : (s.setDraws k).history = s.history := rfl
@[simp] theorem State.setDraws_bus : (s.setDraws k).bus = s.bus := rfl
@[simp] theorem State.setDraws_src : (s.setDraws k).src = s.src := rfl
@[simp] theorem State.setDraws_nanDraws : (s.setDraws k).nanDraws = k := rfl
end

section
variable (s : State) (p : SeqPos)
@[simp] theorem State.setSeq_cfg : (s.setSeq p).cfg = s.cfg := rfl
@[simp] theorem State.setSeq_pending : (s.setSeq p).pending = s.pending := rfl
@[simp] theorem State.setSeq_operand : (s.setSeq p).operand = s.operand := rfl
@[simp] theorem State.setSeq_result : (s.setSeq p).result = s.result := rfl
@[simp] theorem State.setSeq_activeIsA : (s.setSeq p).activeIsA = s.activeIsA := rfl
@[simp] theorem State.setSeq_bufs : (s.setSeq p).bufs = s.bufs := rfl
@[simp] theorem State.setSeq_phase : (s.setSeq p).phase = s.phase := rfl
@[simp] theorem State.setSeq_dspState : (s.setSeq p).dspState = s.dspState := rfl
@[simp] theorem State.setSeq_inputVolume : (s.setSeq p).inputVolume = s.inputVolume := rfl
@[simp] theorem State.setSeq_seq : (s.setSeq p).seq = p := rfl
@[simp] theorem State.setSeq_mstate : (s.setSeq p).mstate = s.mstate := rfl
@[simp] theorem State.setSeq_mbuf : (s.setSeq p).mbuf = s.mbuf := rfl
@[simp] theorem State.setSeq_faults : (s.setSeq p).faults = s.faults := rfl
@[simp] theorem State.setSeq_history : (s.setSeq p).history = s.history := rfl
@[simp] theorem State.setSeq_bus : (s.setSeq p).bus = s.bus := rfl
@[simp] theorem State.setSeq_src : (s.setSeq p).src = s.src := rfl
@[simp] theorem State.setSeq_nanDraws : (s.setSeq p).nanDraws = s.nanDraws := rfl
end

section
variable (s : State) (c : Side) (v : Byte)
@[simp] theorem State.setVol_cfg : (s.setVol c v).cfg = s.cfg := rfl
@[simp] theorem State.setVol_pending : (s.setVol c v).pending = s.pending := rfl
@[simp] theorem State.setVol_operand : (s.setVol c v).operand = s.operand := rfl
@[simp] theorem State.setVol_result : (s.setVol c v).result = s.result := rfl
@[simp] theorem State.setVol_activeIsA : (s.setVol c v).activeIsA = s.activeIsA := rfl
@[simp] theorem State.setVol_bufs : (s.setVol c v).bufs = s.bufs := rfl
@[simp] theorem State.setVol_phase : (s.setVol c v).phase = s.phase := rfl
@[simp] theorem State.setVol_dspState : (s.setVol c v).dspState = s.dspState := rfl
@[simp] theorem State.setVol_inputVolume : (s.setVol c v).inputVolume = setSide s.inputVolume c v := rfl
@[simp] theorem State.setVol_seq : (s.setVol c v).seq = s.seq := rfl
@[simp] theorem State.setVol_mstate : (s.setVol c v).mstate = s.mstate := rfl
@[simp] theorem State.setVol_mbuf : (s.setVol c v).mbuf = s.mbuf := rfl
@[simp] theorem State.setVol_faults : (s.setVol c v).faults = s.faults := rfl
@[simp] theorem State.setVol_history : (s.setVol c v).history = s.history := rfl
@[simp] theorem State.setVol_bus : (s.setVol c v).bus = s.bus := rfl
@[simp] theorem State.setVol_src : (s.setVol c v).src = s.src := rfl
@[simp] theorem State.setVol_nanDraws : (s.setVol c v).nanDraws = s.nanDraws := rfl
end

section
variable (s : State) (m : MState)
@[simp] theorem State.setMState_cfg : (s.setMState m).cfg = s.cfg := rfl
@[simp] theorem State.setMState_pending : (s.setMState m).pending = s.pending := rfl
@[simp] theorem State.setMState_operand : (s.setMState m).operand = s.operand := rfl
@[simp] theorem State.setMState_result : (s.setMState m).result = s.result := rfl
@[simp] theorem State.setMState_activeIsA : (s.setMState m).activeIsA = s.activeIsA := rfl
@[simp] theorem State.setMState_bufs : (s.setMState m).bufs = s.bufs := rfl
@[simp] theorem State.setMState_phase : (s.setMState m).phase = s.phase := rfl
@[simp] theorem State.setMState_dspState : (s.setMState m).dspState = s.dspState := rfl
@[simp] theorem State.setMState_inputVolume : (s.setMState m).inputVolume = s.inputVolume := rfl
@[simp] theorem State.setMState_seq : (s.setMState m).seq = s.seq := rfl
@[simp] theorem State.setMState_mstate : (s.setMState m).mstate = m := rfl
@[simp] theorem State.setMState_mbuf : (s.setMState m).mbuf = s.mbuf := rfl
@[simp] theorem State.setMState_faults : (s.setMState m).faults = s.faults := rfl
@[simp] theorem State.setMState_history : (s.setMState m).history = s.history := rfl
@[simp] theorem State.setMState_bus : (s.setMState m).bus = s.bus := rfl
@[simp] theorem State.setMState_src : (s.setMState m).src = s.src := rfl
@[simp] theorem State.setMState_nanDraws : (s.setMState m).nanDraws = s.nanDraws := rfl
end

section
variable (s : State) (b : MidiBuf)
@[simp] theorem State.setMbuf_cfg : (s.setMbuf b).cfg = s.cfg := rfl
@[simp] theorem State.setMbuf_pending : (s.setMbuf b).pending = s.pending := rfl
@[simp] theorem State.setMbuf_operand : (s.setMbuf b).operand = s.operand := rfl
@[simp] theorem State.setMbuf_result : (s.setMbuf b).result = s.result := rfl
@[simp] theorem State.setMbuf_activeIsA : (s.setMbuf b).activeIsA = s.activeIsA := rfl
@[simp] theorem State.setMbuf_bufs : (s.setMbuf b).bufs = s.bufs := rfl
@[simp] theorem State.setMbuf_phase : (s.setMbuf b).phase = s.phase := rfl
@[simp] theorem State.setMbuf_dspState : (s.setMbuf b).dspState = s.dspState := rfl
@[simp] theorem State.setMbuf_inputVolume : (s.setMbuf b).inputVolume = s.inputVolume := rfl
@[simp] theorem State.setMbuf_seq : (s.setMbuf b).seq = s.seq := rfl
@[simp] theorem State.setMbuf_mstate : (s.setMbuf b).mstate = s.mstate := rfl
@[simp] theorem State.setMbuf_mbuf : (s.setMbuf b).mbuf = b := rfl
@[simp] theorem State.setMbuf_faults : (s.setMbuf b).faults = s.faults := rfl
@[simp] theorem State.setMbuf_history : (s.setMbuf b).history = s.history := rfl
@[simp] theorem State.setMbuf_bus : (s.setMbuf b).bus = s.bus := rfl
@[simp] theorem State.setMbuf_src : (s.setMbuf b).src = s.src := rfl
@[simp] theorem State.setMbuf_nanDraws : (s.setMbuf b).nanDraws = s.nanDraws := rfl
end

section
variable (s : State) (cs : List Command)
@[simp] theorem State.issue_cfg : (s.issue cs).cfg = s.cfg := rfl
@[simp] theorem State.issue_pending : (s.issue cs).pending = s.pending ++ cs := rfl
@[simp] theorem State.issue_operand : (s.issue cs).operand = s.operand := rfl
@[simp] theorem State.issue_result : (s.issue cs).result = s.result := rfl
@[simp] theorem State.issue_activeIsA : (s.issue cs).activeIsA = s.activeIsA := rfl
@[simp] theorem State.issue_bufs : (s.issue cs).bufs = s.bufs := rfl
@[simp] theorem State.issue_phase : (s.issue cs).phase = s.phase := rfl
@[simp] theorem State.issue_dspState : (s.issue cs).dspState = s.dspState := rfl
@[simp] theorem State.issue_inputVolume : (s.issue cs).inputVolume = s.inputVolume := rfl
@[simp] theorem State.issue_seq : (s.issue cs).seq = s.seq := rfl
@[simp] theorem State.issue_mstate : (s.issue cs).mstate = s.mstate := rfl
@[simp] theorem State.issue_mbuf : (s.issue cs).mbuf = s.mbuf := rfl
@[simp] theorem State.issue_faults : (s.issue cs).faults = s.faults := rfl
@[simp] theorem State.issue_history : (s.issue cs).history = s.history := rfl
@[simp] theorem State.issue_bus : (s.issue cs).bus = s.bus := rfl
@[simp] theorem State.issue_src : (s.issue cs).src = s.src := rfl
@[simp] theorem State.issue_nanDraws : (s.issue cs).nanDraws = s.nanDraws := rfl
end

end Sys2Proof.Machine
end

