-- ==== Sys2Proof/Laws/Buffer.lean ====
section
/-! SUPPORT. The laws of one buffer: a read after a write, and the canonical form that every write keeps. -/

namespace Sys2Proof.Machine

@[simp] theorem Buffer.read_nil (i : Nat) : Buffer.read [] i = none := rfl

theorem Buffer.read_cons (k : Nat) (v : Word) (rest : Buffer) (j : Nat) :
    Buffer.read ((k, v) :: rest) j = if k = j then some v else Buffer.read rest j := rfl

theorem Buffer.read_write (b : Buffer) (i j : Nat) (w : Word) :
    Buffer.read (Buffer.write b i w) j = if j = i then some w else Buffer.read b j := by
  induction b with
  | nil =>
    rw [Buffer.write, Buffer.read_cons]
    by_cases h : j = i
    · rw [if_pos h.symm, if_pos h]
    · rw [if_neg (Ne.symm h), if_neg h]
  | cons e rest ih =>
    obtain ⟨k, v⟩ := e
    rw [Buffer.write]
    split
    · rw [Buffer.read_cons]
      by_cases h : j = i
      · rw [if_pos h.symm, if_pos h]
      · rw [if_neg (Ne.symm h), if_neg h]
    · split
      · rename_i h2
        subst h2
        rw [Buffer.read_cons, Buffer.read_cons]
        by_cases h : j = i
        · rw [if_pos h.symm, if_pos h]
        · rw [if_neg (Ne.symm h), if_neg h, if_neg (Ne.symm h)]
      · rw [Buffer.read_cons, Buffer.read_cons, ih]
        by_cases h : k = j
        · rw [if_pos h, if_pos h, if_neg (by omega)]
        · rw [if_neg h, if_neg h]

@[simp] theorem Buffer.read_write_same (b : Buffer) (i : Nat) (w : Word) :
    Buffer.read (Buffer.write b i w) i = some w := by simp [Buffer.read_write]

theorem Buffer.read_write_other (b : Buffer) {i j : Nat} (h : j ≠ i) (w : Word) :
    Buffer.read (Buffer.write b i w) j = Buffer.read b j := by simp [Buffer.read_write, h]

/-- A read after a run of writes: the word written there, else what was there. -/
theorem Buffer.read_writeFrom (ws : List Word) : ∀ (b : Buffer) (i j : Nat),
    Buffer.read (Buffer.writeFrom b i ws) j
      = if i ≤ j ∧ j < i + ws.length then ws[j - i]? else Buffer.read b j := by
  induction ws with
  | nil => intro b i j; simp only [Buffer.writeFrom, List.length_nil]; rw [if_neg (by omega)]
  | cons w ws ih =>
    intro b i j
    simp only [Buffer.writeFrom, ih, Buffer.read_write, List.length_cons]
    by_cases hj : j = i
    · subst hj; simp
    · by_cases h1 : i + 1 ≤ j ∧ j < i + 1 + ws.length
      · rw [if_pos h1, if_pos (by omega), show j - i = (j - (i + 1)) + 1 by omega, List.getElem?_cons_succ]
      · rw [if_neg h1, if_neg hj, if_neg (by omega)]

theorem Buffer.rising_write (b : Buffer) : ∀ (lo i : Nat) (w : Word), lo ≤ i → Buffer.rising lo b = true →
    Buffer.rising lo (Buffer.write b i w) = true := by
  induction b with
  | nil => intro lo i w h _; simp [Buffer.write, Buffer.rising, h]
  | cons e rest ih =>
    obtain ⟨k, v⟩ := e
    intro lo i w h hb
    simp only [Buffer.rising, Bool.and_eq_true, decide_eq_true_eq] at hb
    simp only [Buffer.write]
    split
    · simp only [Buffer.rising, Bool.and_eq_true, decide_eq_true_eq]; exact ⟨h, by omega, hb.2⟩
    · split
      · rename_i h2; subst h2; simp only [Buffer.rising, Bool.and_eq_true, decide_eq_true_eq]; exact ⟨h, hb.2⟩
      · simp only [Buffer.rising, Bool.and_eq_true, decide_eq_true_eq]
        exact ⟨hb.1, ih (k + 1) i w (by omega) hb.2⟩

theorem Buffer.mem_write {b : Buffer} {i : Nat} {w : Word} {e : Nat × Word} (h : e ∈ Buffer.write b i w) :
    e = (i, w) ∨ e ∈ b := by
  induction b with
  | nil => simpa [Buffer.write] using h
  | cons x rest ih =>
    obtain ⟨k, v⟩ := x
    simp only [Buffer.write] at h
    split at h
    · simpa using h
    · split at h
      · simp only [List.mem_cons] at h ⊢; tauto
      · simp only [List.mem_cons] at h ⊢
        rcases h with h | h
        · exact .inr (.inl h)
        · rcases ih h with h | h <;> tauto

theorem Buffer.mem_writeFrom {ws : List Word} : ∀ {b : Buffer} {i : Nat} {e : Nat × Word},
    e ∈ Buffer.writeFrom b i ws → (∃ j, i ≤ j ∧ j < i + ws.length ∧ e.1 = j ∧ e.2 ∈ ws) ∨ e ∈ b := by
  induction ws with
  | nil => intro b i e h; exact .inr h
  | cons w ws ih =>
    intro b i e h
    rcases ih h with ⟨j, h1, h2, h3, h4⟩ | h
    · exact .inl ⟨j, by omega, by simp only [List.length_cons]; omega, h3, List.mem_cons_of_mem _ h4⟩
    · rcases Buffer.mem_write h with h | h
      · subst h; exact .inl ⟨i, le_refl i, by simp, rfl, by simp⟩
      · exact .inr h

/-- A write inside the index space keeps the canonical form. -/
theorem Buffer.wf_write {n : Nat} {b : Buffer} {i : Nat} (w : Word) (hi : i < n) (hb : Buffer.wf n b = true) :
    Buffer.wf n (Buffer.write b i w) = true := by
  simp only [Buffer.wf, Bool.and_eq_true, List.all_eq_true, decide_eq_true_eq] at hb ⊢
  refine ⟨Buffer.rising_write b 0 i w (by omega) hb.1, fun e he => ?_⟩
  rcases Buffer.mem_write he with h | h
  · subst h; exact hi
  · exact hb.2 e h

/-- A run of writes inside the index space keeps the canonical form. -/
theorem Buffer.wf_writeFrom {n : Nat} (ws : List Word) : ∀ {b : Buffer} {i : Nat}, i + ws.length ≤ n →
    Buffer.wf n b = true → Buffer.wf n (Buffer.writeFrom b i ws) = true := by
  induction ws with
  | nil => intro b i _ h; exact h
  | cons w ws ih =>
    intro b i hn hb
    simp only [List.length_cons] at hn
    exact ih (by omega) (Buffer.wf_write w (by omega) hb)

theorem Buffers.get_set_same (bs : Buffers) (b : BufId) (x : Buffer) : (bs.set b x).get b = x := by
  rcases b with ⟨_ | _⟩ | ⟨_ | _⟩ | _ | _ | _ | _ <;> rfl

theorem Buffers.get_set_other (bs : Buffers) {b c : BufId} (h : c ≠ b) (x : Buffer) :
    (bs.set b x).get c = bs.get c := by
  rcases b with ⟨_ | _⟩ | ⟨_ | _⟩ | _ | _ | _ | _ <;> rcases c with ⟨_ | _⟩ | ⟨_ | _⟩ | _ | _ | _ | _ <;>
    first | rfl | exact absurd rfl h

/-- All eight buffers are in canonical form exactly when each is, inside its own index space. -/
theorem Buffers.wf_iff (c : Config) (bs : Buffers) :
    bs.wf c = true ↔ ∀ b, Buffer.wf (bufLength c b) (bs.get b) = true := by
  simp only [Buffers.wf, Bool.and_eq_true]
  constructor
  · intro h b
    rcases b with ⟨_ | _⟩ | ⟨_ | _⟩ | _ | _ | _ | _ <;> simp only [bufLength, Buffers.get] <;> tauto
  · intro h
    exact ⟨⟨⟨⟨⟨⟨⟨h (.inSlot .A), h (.inSlot .B)⟩, h (.outSlot .A)⟩, h (.outSlot .B)⟩, h .dspInL⟩, h .dspInR⟩,
      h .dspOutL⟩, h .dspOutR⟩

theorem Buffers.wf_set {c : Config} {bs : Buffers} {b : BufId} {x : Buffer}
    (hx : Buffer.wf (bufLength c b) x = true) (h : bs.wf c = true) : (bs.set b x).wf c = true := by
  rw [Buffers.wf_iff] at h ⊢
  intro d
  by_cases hd : d = b
  · subst hd; rw [Buffers.get_set_same]; exact hx
  · rw [Buffers.get_set_other bs hd]; exact h d

/-- The empty storage of `State.reset` is in canonical form. -/
theorem reset_bufs_wf (c : Config) : (State.resetWith c).bufs.wf c = true := rfl

end Sys2Proof.Machine
end

