-- ==== Sys2Proof/Laws/Ops.lean ====
section
/-! SUPPORT. One lemma per shared operation that says once everything it can do. -/

namespace Sys2Proof.Machine

/-! ## Fault record and order check -/

theorem State.checkOrder_eq (w : Phase) (s : State) :
    s.checkOrder w = { s with faults := if s.phase = w then s.faults else faultAdd .orderViolation s.faults } := by
  unfold State.checkOrder; split <;> rfl

theorem State.noteReads_eq (b : BufId) (n : Nat) (s : State) :
    s.noteReads b n =
      { s with faults := if (List.range n).all (s.written b) then s.faults else faultAdd .unwrittenRead s.faults } := by
  unfold State.noteReads; split <;> rfl

/-- A fault once recorded stays recorded by a further one (10_state.md R46). -/
theorem faultAdd_keeps (k j : Fault) (f : FaultSet) (h : faultHas j f = true) : faultHas j (faultAdd k f) = true := by
  cases k <;> cases j <;> simp_all [faultAdd, faultHas]

theorem faultHas_faultAdd (k : Fault) (f : FaultSet) : faultHas k (faultAdd k f) = true := by cases k <;> rfl

/-! ## Buffers of the state -/

theorem State.buf_congr {s t : State} (h : s.bufs = t.bufs) : s.buf = t.buf := by funext b; simp [State.buf, h]

theorem State.written_congr {s t : State} {b : BufId} (h : s.buf b = t.buf b) : s.written b = t.written b := by
  funext i; simp [State.written, h]

theorem State.bufVal_congr {s t : State} {b : BufId} (h : s.buf b = t.buf b) : s.bufVal b = t.bufVal b := by
  funext i; simp [State.bufVal, h]

theorem State.bufVals_congr {s t : State} {b : BufId} (h : s.buf b = t.buf b) (n : Nat) :
    s.bufVals b n = t.bufVals b n := by simp [State.bufVals, State.bufVal_congr h]

@[simp] theorem State.length_bufVals (s : State) (b : BufId) (n : Nat) : (s.bufVals b n).length = n := by
  simp [State.bufVals]

theorem State.bufWriteAll_eq (b : BufId) (ws : List Word) (s : State) :
    s.bufWriteAll b ws = { s with bufs := s.bufs.set b (Buffer.writeFrom (s.buf b) 0 ws) } := rfl

theorem State.buf_bufWriteAll_same (b : BufId) (ws : List Word) (s : State) :
    (s.bufWriteAll b ws).buf b = Buffer.writeFrom (s.buf b) 0 ws := by
  simp [State.bufWriteAll, State.buf, Buffers.get_set_same]

theorem State.buf_bufWriteAll_other {b c : BufId} (h : c ≠ b) (ws : List Word) (s : State) :
    (s.bufWriteAll b ws).buf c = s.buf c := by
  simp [State.bufWriteAll, State.buf, Buffers.get_set_other _ h]

/-- What a buffer reads as after a run of writes from 0. -/
theorem State.read_bufWriteAll_same (b : BufId) (ws : List Word) (s : State) (j : Nat) :
    Buffer.read ((s.bufWriteAll b ws).buf b) j
      = if j < ws.length then ws[j]? else Buffer.read (s.buf b) j := by
  rw [State.buf_bufWriteAll_same, Buffer.read_writeFrom]; simp

/-- Reading back what was just written gives the words written. -/
theorem State.bufVals_bufWriteAll (b : BufId) (ws : List Word) (s : State) :
    (s.bufWriteAll b ws).bufVals b ws.length = ws := by
  apply List.ext_getElem
  · simp
  · intro i h1 h2
    simp [State.bufVals, State.bufVal, State.read_bufWriteAll_same, h2]

/-- Everything just written carries its mark. -/
theorem State.all_written_bufWriteAll (b : BufId) (ws : List Word) (s : State) {n : Nat} (hn : n ≤ ws.length) :
    (List.range n).all ((s.bufWriteAll b ws).written b) = true := by
  simp only [List.all_eq_true, List.mem_range]
  intro i hi
  have : i < ws.length := by omega
  simp [State.written, State.read_bufWriteAll_same, this]

theorem State.noteReads_of_written {s : State} {b : BufId} {n : Nat} (h : (List.range n).all (s.written b) = true) :
    s.noteReads b n = s := by simp [State.noteReads, h]

/-- The writes of a list no longer than the index space keep the canonical form of all storage. -/
theorem State.wf_bufWriteAll {s : State} {b : BufId} {ws : List Word} (hl : ws.length ≤ bufLength s.cfg b)
    (h : s.bufs.wf s.cfg = true) : (s.bufWriteAll b ws).bufs.wf s.cfg = true := by
  rw [State.bufWriteAll_eq]
  exact Buffers.wf_set (Buffer.wf_writeFrom ws (by simpa using hl) ((Buffers.wf_iff _ _).1 h b)) h

/-! ## Bus writes -/

theorem State.wr_eq (a : RegAddr) (v : RegVal) (s : State) :
    s.wr a v = ((busAnswer s.bus).1 == 2,
      { s with bus := (busAnswer s.bus).2, history := s.history ++ [writeEvent s.cfg ⟨a, v⟩ (busAnswer s.bus).1] }) := rfl

@[simp] theorem length_nextAcks (k : Nat) : ∀ b : BusAgent, (nextAcks k b).length = k := by
  induction k with
  | zero => intro b; rfl
  | succ k ih => intro b; simp [nextAcks, ih]

/-- A sequence of writes: which are issued, what the history gains, and when it succeeds. -/
theorem State.wrAll_eq (ws : List RegWrite) : ∀ s : State,
    s.wrAll ws = (decide (reliableFor ws.length s.bus),
      { s with
        bus := busAfter (issuedWrites (nextAcks ws.length s.bus)) s.bus
        history := s.history ++ writeEvents s.cfg ws (nextAcks ws.length s.bus) }) := by
  induction ws with
  | nil => intro s; simp [State.wrAll, reliableFor, nextAcks, issuedWrites, busAfter, writeEvents]
  | cons w ws ih =>
    intro s
    rw [State.wrAll, State.wr_eq]
    by_cases h : (busAnswer s.bus).1 = 2
    · simp only [h, beq_self_eq_true, ih]
      simp [reliableFor, nextAcks, issuedWrites, busAfter, writeEvents, h, List.replicate_succ]
    · have h' : ((busAnswer s.bus).1 == 2) = false := by simpa using h
      simp only [h']
      simp [reliableFor, nextAcks, issuedWrites, busAfter, writeEvents, h, List.replicate_succ]

/-- The table walk issues the writes of its list as `wrAll` does, and moves the sequencer's position besides. -/
theorem State.walk_eq (ws : List RegWrite) : ∀ (k : Nat) (s : State),
    ∃ p, s.walk k ws = ((s.wrAll ws).1, (s.wrAll ws).2.setSeq p) := by
  induction ws with
  | nil => intro k s; exact ⟨s.seq, rfl⟩
  | cons w ws ih =>
    intro k s
    rw [State.walk, State.wrAll, State.wr_eq, State.wr_eq]
    simp only [State.setSeq_bus, State.setSeq_cfg, State.setSeq_history]
    by_cases h : (busAnswer s.bus).1 = 2
    · simp only [h, beq_self_eq_true]
      obtain ⟨p, hp⟩ := ih (k + 1) _
      refine ⟨p, hp.trans ?_⟩
      simp only [State.wrAll_eq]
      rfl
    · have h' : ((busAnswer s.bus).1 == 2) = false := by simpa using h
      simp only [h']
      exact ⟨.writing k, rfl⟩

/-- The outcome of a command after its writes. -/
theorem finishWrites_eq (r : Bool × State) :
    finishWrites r = r.2.respond (if r.1 then .ok else .busWriteFailure) (.flag r.1) := by
  unfold finishWrites; cases r.1 <;> rfl

/-- CODEC.PROBE leaves everything as it was but the bus, the history, the ports and the idle sequencer (R222). -/
theorem State.probe_frame (s : State) : ∃ b h st ok,
    s.probe = { s with bus := b, history := h, seq := .idle, operand := .empty, result := some ⟨st, .flag ok⟩ } := by
  unfold State.probe
  obtain ⟨p, hp⟩ := State.walk_eq (bringUpHead s.cfg) 0 s
  rw [hp, State.wrAll_eq]
  split
  · rename_i heq; obtain ⟨-, rfl⟩ := Prod.mk.inj heq; exact ⟨_, _, _, _, rfl⟩
  · rename_i heq
    obtain ⟨-, rfl⟩ := Prod.mk.inj heq
    split
    · exact ⟨_, _, _, _, rfl⟩
    · rename_i pll _
      obtain ⟨q, hq⟩ := State.walk_eq (pll ++ bringUpTail s.cfg s.inputVolume) (bringUpHead s.cfg).length _
      rw [hq, State.wrAll_eq]
      split
      · rename_i heq2; obtain ⟨-, rfl⟩ := Prod.mk.inj heq2; exact ⟨_, _, _, _, rfl⟩
      · rename_i heq2; obtain ⟨-, rfl⟩ := Prod.mk.inj heq2; exact ⟨_, _, _, _, rfl⟩

/-! ## The volume cache -/

theorem State.updateVols_eq (cs : List Side) (f : Byte → Byte) : ∀ s : State,
    s.updateVols cs f = { s with inputVolume := cs.foldl (fun p c => setSide p c (f (sideOf p c))) s.inputVolume } := by
  induction cs with
  | nil => intro s; rfl
  | cons c cs ih => intro s; simp only [State.updateVols, List.foldl_cons] at ih ⊢; rw [ih]; rfl

theorem sideOf_setSide {α : Type} (p : PerSide α) (c d : Side) (x : α) :
    sideOf (setSide p c x) d = if d = c then x else sideOf p d := by cases c <;> cases d <;> rfl

/-- Each channel that the selector names is updated once, from its old value; the other keeps its value (R237). -/
theorem State.vol_updateVols (h : Channel) (f : Byte → Byte) (s : State) (c : Side) :
    (s.updateVols (chans h) f).vol c = if c ∈ chans h then f (s.vol c) else s.vol c := by
  rw [State.updateVols_eq]
  cases h <;> cases c <;> rfl

/-! ## The parser -/

theorem State.sink_eq (c : SinkCall) (s : State) :
    s.sink c = { s with
      dspState := { s.dspState with code := Config.dspSink s.dspState.code c }
      history := s.history ++ [.sink c] } := rfl

/-- A dispatch changes at most the DSP's state and the history. -/
theorem State.dispatch_frame (st d1 d2 : Byte) (s : State) : ∃ d h,
    s.dispatch st d1 d2 = { s with dspState := d, history := s.history ++ h } := by
  unfold State.dispatch
  split
  · split
    · exact ⟨_, _, State.sink_eq _ _⟩
    · exact ⟨s.dspState, [], by simp⟩
  · exact ⟨s.dspState, [], by simp⟩

/-- A byte changes at most the parser's state, the DSP's state and the history. -/
theorem State.midiStep_frame (s : State) (b : Byte) : ∃ m mb d h,
    s.midiStep b = { s with mstate := m, mbuf := mb, dspState := d, history := s.history ++ h } := by
  have hr : ∃ m h, s.resync b = { s with mstate := m, history := s.history ++ h } := by
    unfold State.resync
    split
    · exact ⟨_, _, rfl⟩
    · exact ⟨s.mstate, [], by simp⟩
  obtain ⟨m, h, hr⟩ := hr
  unfold State.midiStep State.parse
  rw [hr]
  split
  · split
    · exact ⟨_, _, _, _, rfl⟩
    · exact ⟨_, _, _, _, rfl⟩
  · exact ⟨_, _, _, _, rfl⟩
  · obtain ⟨d, h', hd⟩ := State.dispatch_frame s.mbuf.b0 s.mbuf.b1 b
      ((({ s with mstate := m, history := s.history ++ h } : State).setMbuf { s.mbuf with b2 := b }).setMState
        .awaitingStatus)
    exact ⟨.awaitingStatus, { s.mbuf with b2 := b }, d, h ++ h', by rw [hd]; simp [State.setMbuf, State.setMState]⟩

/-- A list of bytes changes at most the parser's state, the DSP's state and the history. -/
theorem State.midiSteps_frame (bs : List Byte) : ∀ s : State, ∃ m mb d h,
    bs.foldl State.midiStep s = { s with mstate := m, mbuf := mb, dspState := d, history := s.history ++ h } := by
  induction bs with
  | nil => intro s; exact ⟨s.mstate, s.mbuf, s.dspState, [], by simp⟩
  | cons b bs ih =>
    intro s
    obtain ⟨m, mb, d, h, e⟩ := State.midiStep_frame s b
    obtain ⟨m', mb', d', h', e'⟩ := ih (s.midiStep b)
    refine ⟨m', mb', d', h ++ h', ?_⟩
    rw [List.foldl_cons, e', e]
    simp

/-! ## The arbiter -/

/-- The bypass changes at most the two output buffers and the fault record. -/
theorem State.bypassCopy_frame (s : State) : ∃ f,
    s.bypassCopy = ((({ s with faults := f } : State).bufWriteAll .dspOutL (s.bufVals .dspInL s.cfg.frames)).bufWriteAll
      .dspOutR (s.bufVals .dspInR s.cfg.frames)) := by
  simp only [State.bypassCopy, State.noteReads_eq]
  exact ⟨_, rfl⟩

/-- The DSP changes at most the two output buffers, its own state, the history and the fault record. -/
theorem State.dspProcess_frame (s : State) : ∃ f,
    s.dspProcess =
      ((({ s with
            faults := f
            history := s.history ++ [.dspProcess]
            dspState := (dspOracle s.cfg.frames s.dspState (s.bufVals .dspInL s.cfg.frames)
              (s.bufVals .dspInR s.cfg.frames)).1 } : State).bufWriteAll .dspOutL
          (dspOracle s.cfg.frames s.dspState (s.bufVals .dspInL s.cfg.frames)
            (s.bufVals .dspInR s.cfg.frames)).2.1).bufWriteAll .dspOutR
        (dspOracle s.cfg.frames s.dspState (s.bufVals .dspInL s.cfg.frames)
          (s.bufVals .dspInR s.cfg.frames)).2.2) := by
  simp only [State.dspProcess, State.noteReads_eq]
  exact ⟨_, rfl⟩

@[simp] theorem length_dspOracle_left (f : Nat) (d : DspState) (l r : List F32) :
    (dspOracle f d l r).2.1.length = f := by simp [dspOracle]

@[simp] theorem length_dspOracle_right (f : Nat) (d : DspState) (l r : List F32) :
    (dspOracle f d l r).2.2.length = f := by simp [dspOracle]

@[simp] theorem length_deinterleave (f p : Nat) (ws : List Word) : (deinterleave f p ws).length = f := by
  simp [deinterleave]

@[simp] theorem length_fromFloats (xs : List F32) : ∀ k, (fromFloats xs k).length = xs.length := by
  induction xs with
  | nil => intro k; rfl
  | cons x xs ih => intro k; simp [fromFloats, ih]

theorem length_interleave (l : List F32) : ∀ r : List F32, l.length = r.length →
    (interleave l r).length = 2 * l.length := by
  induction l with
  | nil => intro r _; simp [interleave]
  | cons x l ih =>
    intro r h
    cases r with
    | nil => simp at h
    | cons y r => simp only [interleave, List.length_cons, ih r (by simpa using h)]; omega

theorem length_interleaveWords {l r : List F32} (h : l.length = r.length) (k : Nat) :
    (interleaveWords l r k).length = 2 * l.length := by
  simp [interleaveWords, length_interleave l r h]

/-- `process` writes every element of both output buffers, and nothing else of the storage. -/
theorem State.process_spec (s : State) : ∃ f d h lo ro, lo.length = s.cfg.frames ∧ ro.length = s.cfg.frames ∧
    s.process = ((({ s with faults := f, dspState := d, history := h } : State).bufWriteAll .dspOutL lo).bufWriteAll
      .dspOutR ro) := by
  unfold State.process
  split
  · obtain ⟨f, e⟩ := State.dspProcess_frame s
    exact ⟨f, _, _, _, _, by simp, by simp, e⟩
  · obtain ⟨f, e⟩ := State.bypassCopy_frame s
    exact ⟨f, s.dspState, s.history, _, _, by simp, by simp, e⟩

/-! ## What keeps the DSP's setup -/

@[simp] theorem dspOracle_setup (f : Nat) (d : DspState) (l r : List F32) : (dspOracle f d l r).1.setup = d.setup := rfl

@[simp] theorem State.sink_setup (c : SinkCall) (s : State) : (s.sink c).dspState.setup = s.dspState.setup := rfl

@[simp] theorem State.dispatch_setup (st d1 d2 : Byte) (s : State) :
    (s.dispatch st d1 d2).dspState.setup = s.dspState.setup := by
  unfold State.dispatch
  repeat' split
  all_goals rfl

@[simp] theorem State.midiStep_setup (s : State) (b : Byte) : (s.midiStep b).dspState.setup = s.dspState.setup := by
  unfold State.midiStep State.resync State.parse
  repeat' split
  all_goals simp

@[simp] theorem State.midiSteps_setup (bs : List Byte) : ∀ s : State,
    (bs.foldl State.midiStep s).dspState.setup = s.dspState.setup := by
  induction bs with
  | nil => intro s; rfl
  | cons b bs ih => intro s; simp [ih]

@[simp] theorem State.process_setup (s : State) : s.process.dspState.setup = s.dspState.setup := by
  unfold State.process
  split
  · obtain ⟨f, e⟩ := State.dspProcess_frame s
    rw [e]; rfl
  · obtain ⟨f, e⟩ := State.bypassCopy_frame s
    rw [e]; rfl

/-! ## The parser with no DSP bound (43_midi.md R259) -/

theorem State.dispatch_noDsp {s : State} (h : s.cfg.dspBound = false) (st d1 d2 : Byte) : s.dispatch st d1 d2 = s := by
  simp [State.dispatch, h]

/-- With no DSP a byte changes at most the parser's state, and appends no sink call to the history. -/
theorem State.midiStep_noDsp {s : State} (h : s.cfg.dspBound = false) (b : Byte) : ∃ m mb es,
    s.midiStep b = { s with mstate := m, mbuf := mb, history := s.history ++ es } ∧ ∀ c, Event.sink c ∉ es := by
  by_cases hb : s.mstate ≠ .awaitingStatus ∧ b.getLsbD 7 = true
  · have e : s.resync b = { s with mstate := .awaitingStatus, history := s.history ++ [.desync b] } := by
      simp [State.resync, hb, State.setMState, State.emit]
    simp only [State.midiStep, e, State.parse]
    split
    · exact ⟨_, _, [.desync b], rfl, by simp⟩
    · exact ⟨_, _, [.desync b], rfl, by simp⟩
  · have e : s.resync b = s := by simp only [State.resync]; rw [if_neg (by simpa using hb)]
    simp only [State.midiStep, e, State.parse]
    split
    · split
      · exact ⟨_, _, [], by simp [State.setMState, State.setMbuf]; exact ⟨rfl, rfl⟩, by simp⟩
      · exact ⟨s.mstate, s.mbuf, [], by simp, by simp⟩
    · exact ⟨_, _, [], by simp [State.setMState, State.setMbuf]; exact ⟨rfl, rfl⟩, by simp⟩
    · rw [State.dispatch_noDsp (by exact h)]
      exact ⟨_, _, [], by simp [State.setMState, State.setMbuf]; exact ⟨rfl, rfl⟩, by simp⟩

/-- The same of a sequence of bytes. -/
theorem State.midiSteps_noDsp (bs : List Byte) : ∀ {s : State}, s.cfg.dspBound = false → ∃ m mb es,
    bs.foldl State.midiStep s = { s with mstate := m, mbuf := mb, history := s.history ++ es } ∧
      ∀ c, Event.sink c ∉ es := by
  induction bs with
  | nil => intro s _; exact ⟨s.mstate, s.mbuf, [], by simp, by simp⟩
  | cons b bs ih =>
    intro s h
    obtain ⟨m, mb, es, e, he⟩ := State.midiStep_noDsp h b
    obtain ⟨m', mb', es', e', he'⟩ := ih (s := s.midiStep b) (by rw [e]; exact h)
    refine ⟨m', mb', es ++ es', ?_, fun c => by simp [he, he']⟩
    rw [List.foldl_cons, e', e, List.append_assoc]

end Sys2Proof.Machine
end

