-- ==== Sys2Proof/Laws/Blocks.lean ====
section
/-! SUPPORT. The laws of a block of samples: the two channels of a block, their interleaving, and the NaN draws of a
conversion. -/

namespace Sys2Proof.Machine

/-- A channel of a block: element `i` is the converted word `2i + p`. -/
theorem getElem?_deinterleave {f p i : Nat} {ws : List Word} (h : 2 * f ≤ ws.length) (hp : p < 2) (hi : i < f) :
    (deinterleave f p ws)[i]? = (ws[2 * i + p]?).map fun w => toFloat (wireDecode w) := by
  have : 2 * i + p < ws.length := by omega
  simp [deinterleave, hi, this, List.getD]

/-- Every element of a channel is the conversion of some word. -/
theorem mem_deinterleave {f p : Nat} {ws : List Word} {x : F32} (h : x ∈ deinterleave f p ws) :
    ∃ w, x = toFloat (wireDecode w) := by
  simp only [deinterleave, List.mem_map] at h
  obtain ⟨i, -, rfl⟩ := h
  exact ⟨_, rfl⟩

/-- The conversion of element `i` draws as many NaNs as stand before it. -/
theorem getElem?_fromFloats (xs : List F32) : ∀ (k i : Nat) (x : F32), xs[i]? = some x →
    (fromFloats xs k)[i]? = some (fromFloat x (k + (xs.take i).countP f32IsNan)) := by
  induction xs with
  | nil => simp
  | cons y ys ih =>
    intro k i x h
    cases i with
    | zero => simp only [List.getElem?_cons_zero, Option.some.injEq] at h; simp [fromFloats, h]
    | succ i =>
      rw [List.getElem?_cons_succ] at h
      simp only [fromFloats, List.getElem?_cons_succ]
      rw [ih _ _ _ h]
      simp only [List.take_succ_cons, List.countP_cons, nextDraw]
      congr 2
      split <;> omega

/-- A conversion of a list takes one draw per NaN. -/
theorem drawsAfter_eq (xs : List F32) : ∀ k, drawsAfter xs k = k + xs.countP f32IsNan := by
  induction xs with
  | nil => simp [drawsAfter]
  | cons y ys ih => intro k; simp only [drawsAfter, ih, List.countP_cons, nextDraw]; split <;> omega

/-- The elements of an interleaving. -/
theorem getElem?_interleave (l : List F32) : ∀ (r : List F32) (i : Nat), l.length = r.length →
    (interleave l r)[2 * i]? = l[i]? ∧ (interleave l r)[2 * i + 1]? = r[i]? := by
  induction l with
  | nil => intro r i h; cases r <;> simp_all [interleave]
  | cons x l ih =>
    intro r i h
    cases r with
    | nil => simp at h
    | cons y r =>
      cases i with
      | zero => simp [interleave]
      | succ i =>
        have := ih r i (by simpa using h)
        simp only [interleave, show 2 * (i + 1) = 2 * i + 1 + 1 by omega]
        simpa using this

/-- The NaNs in a prefix of an interleaving. -/
theorem countP_take_interleave (l : List F32) : ∀ (r : List F32) (i : Nat), l.length = r.length →
    ((interleave l r).take (2 * i)).countP f32IsNan = (l.take i).countP f32IsNan + (r.take i).countP f32IsNan ∧
    (i < l.length → ((interleave l r).take (2 * i + 1)).countP f32IsNan
      = (l.take (i + 1)).countP f32IsNan + (r.take i).countP f32IsNan) := by
  induction l with
  | nil => intro r i h; cases r <;> simp_all [interleave]
  | cons x l ih =>
    intro r i h
    cases r with
    | nil => simp at h
    | cons y r =>
      cases i with
      | zero => simp [interleave]
      | succ i =>
        have := ih r i (by simpa using h)
        simp only [interleave, show 2 * (i + 1) = 2 * i + 1 + 1 by omega, List.take_succ_cons, List.countP_cons]
        refine ⟨by omega, fun hi => ?_⟩
        have := this.2 (by simpa using hi)
        omega

/-- The NaNs of an interleaving are those of both channels. -/
theorem countP_interleave {l r : List F32} (h : l.length = r.length) :
    (interleave l r).countP f32IsNan = l.countP f32IsNan + r.countP f32IsNan := by
  have := (countP_take_interleave l r l.length h).1
  rw [List.take_of_length_le (by rw [length_interleave _ _ h])] at this
  rw [this, List.take_of_length_le (le_refl _), h, List.take_of_length_le (le_refl _)]

/-- The words of an output block, left and right, each with the draw its float would take. -/
theorem getElem?_interleaveWords {l r : List F32} (k i : Nat) (h : l.length = r.length) :
    (∀ x, l[i]? = some x → (interleaveWords l r k)[2 * i]?
      = some (wireEncode (fromFloat x (k + ((l.take i).countP f32IsNan + (r.take i).countP f32IsNan))))) ∧
    (∀ x, r[i]? = some x → (interleaveWords l r k)[2 * i + 1]?
      = some (wireEncode (fromFloat x (k + ((l.take (i + 1)).countP f32IsNan + (r.take i).countP f32IsNan))))) := by
  have hg := getElem?_interleave l r i h
  have hc := countP_take_interleave l r i h
  constructor
  · intro x hx
    rw [← hg.1] at hx
    simp only [interleaveWords, List.getElem?_map]
    rw [getElem?_fromFloats _ _ _ _ hx, hc.1, Option.map_some]
  · intro x hx
    have hi : i < l.length := by have := (List.getElem?_eq_some_iff.1 hx).1; omega
    rw [← hg.2] at hx
    simp only [interleaveWords, List.getElem?_map]
    rw [getElem?_fromFloats _ _ _ _ hx, hc.2 hi, Option.map_some]

end Sys2Proof.Machine
end

