-- ==== Sys2Proof/Laws/PerInstr.lean ====
section
/-! SUPPORT. The family of statements made per instruction: the command word of an instruction carries the opcode and the
zero bits that its row of spec/opcode_table.json fixes. -/

namespace Sys2Proof.Laws.EncodeMatches

/-- The `mask` and `match` columns of spec/opcode_table.json hold of the command word (30_encoding.md R92, R96). -/
def Statement (i : Instr) : Prop := encode i &&& i.mask = i.matchWord

theorem cvtDecLj : Statement .cvtDecLj := rfl
theorem cvtDecLo24 : Statement .cvtDecLo24 := rfl
theorem cvtEncLj : Statement .cvtEncLj := rfl
theorem cvtEncLo24 : Statement .cvtEncLo24 := rfl
theorem cvtTof : Statement .cvtTof := rfl
theorem cvtFromf : Statement .cvtFromf := rfl
theorem cvtDeint : Statement .cvtDeint := rfl
theorem cvtInt : Statement .cvtInt := rfl
theorem pipeRecv : Statement .pipeRecv := rfl
theorem pipeReq : Statement .pipeReq := rfl
theorem codecProbe : Statement .codecProbe := rfl
theorem codecEnjack (jack : Jack) : Statement (.codecEnjack jack) := by cases jack <;> rfl
theorem codecDisjack (jack : Jack) : Statement (.codecDisjack jack) := by cases jack <;> rfl
theorem codecInfo (control : Control) (jack : Jack) (channel : Channel) :
    Statement (.codecInfo control jack channel) := by cases control <;> cases jack <;> cases channel <;> rfl
theorem codecSet (control : Control) (jack : Jack) (channel : Channel) :
    Statement (.codecSet control jack channel) := by cases control <;> cases jack <;> cases channel <;> rfl

/-- The bits of the byte field are outside the mask. -/
theorem midiByte (b : Byte) : Statement (.midiByte b) := by
  unfold Statement
  apply BitVec.eq_of_getLsbD_eq
  intro k hk
  simp only [encode, Instr.mask, Instr.matchWord, Instr.opcode, Opcode.code, Instr.fields, Opcode.format,
    Format.fieldMask, BitVec.getLsbD_and, BitVec.getLsbD_append]
  interval_cases k <;> simp

/-- The bits of the three byte fields are outside the mask. -/
theorem midiPacket (p0 p1 p2 : Byte) : Statement (.midiPacket p0 p1 p2) := by
  unfold Statement
  apply BitVec.eq_of_getLsbD_eq
  intro k hk
  simp only [encode, Instr.mask, Instr.matchWord, Instr.opcode, Opcode.code, Instr.fields, Opcode.format,
    Format.fieldMask, BitVec.getLsbD_and, BitVec.getLsbD_append]
  interval_cases k <;> simp

theorem midiPoll : Statement .midiPoll := rfl

end Sys2Proof.Laws.EncodeMatches
end

