-- ==== Sys2Proof/Laws/Pipeline.lean ====
section
/-! SUPPORT. What the shared operations of the arbiter do, once each, as the buffers they write. -/

namespace Sys2Proof.Machine

/-- Just written elements are no unwritten read. -/
theorem State.noteReads_bufWriteAll (b : BufId) (ws : List Word) (s : State) {n : Nat} (hn : n ≤ ws.length) :
    (s.bufWriteAll b ws).noteReads b n = s.bufWriteAll b ws :=
  State.noteReads_of_written (State.all_written_bufWriteAll b ws s hn)

/-- Writes to another buffer neither add nor lose an unwritten read. -/
theorem State.noteReads_of_written_other {s : State} {b c : BufId} (h : c ≠ b) (ws : List Word) {n : Nat}
    (hw : (List.range n).all (s.written c) = true) :
    (s.bufWriteAll b ws).noteReads c n = s.bufWriteAll b ws := by
  apply State.noteReads_of_written
  rwa [State.written_congr (t := s) (State.buf_bufWriteAll_other h _ _)]

/-- A delivered block: the slot and both input buffers. -/
theorem State.recvBlock_eq {ws : List Word} {s : State} (h : ws.length = 2 * s.cfg.frames) :
    s.recvBlock ws =
      (((s.bufWriteAll (.inSlot s.selected) ws).bufWriteAll .dspInL (deinterleave s.cfg.frames 0 ws)).bufWriteAll .dspInR
        (deinterleave s.cfg.frames 1 ws)).respond .ok .empty := by
  simp only [State.recvBlock]
  rw [← h, State.bufVals_bufWriteAll, State.noteReads_bufWriteAll _ _ _ (le_refl _)]

/-- The two reads of the input buffers, as one change of the fault record. -/
theorem State.noteInputs_eq (s : State) (f : Nat) :
    (s.noteReads .dspInL f).noteReads .dspInR f =
      { s with faults :=
          if (List.range f).all (s.written .dspInL) && (List.range f).all (s.written .dspInR) then s.faults
          else faultAdd .unwrittenRead s.faults } := by
  simp only [State.noteReads_eq]
  show ({ s with
    faults :=
      if (List.range f).all (s.written .dspInR) = true then
        (if (List.range f).all (s.written .dspInL) = true then s.faults else faultAdd .unwrittenRead s.faults)
      else faultAdd .unwrittenRead
        (if (List.range f).all (s.written .dspInL) = true then s.faults else faultAdd .unwrittenRead s.faults) }
    : State) = _
  cases (List.range f).all (s.written .dspInR) <;> cases (List.range f).all (s.written .dspInL) <;> rfl

/-- What the DSP, or the bypass, leaves: both output buffers, the DSP's state, the history and the fault record. -/
theorem State.process_eq (s : State) :
    let inL := s.bufVals .dspInL s.cfg.frames
    let inR := s.bufVals .dspInR s.cfg.frames
    let out := dspOracle s.cfg.frames s.dspState inL inR
    s.process =
      (({ s with
          faults :=
            if (List.range s.cfg.frames).all (s.written .dspInL) && (List.range s.cfg.frames).all (s.written .dspInR)
            then s.faults else faultAdd .unwrittenRead s.faults
          dspState := if s.cfg.dspBound then out.1 else s.dspState
          history := if s.cfg.dspBound then s.history ++ [.dspProcess] else s.history } : State).bufWriteAll .dspOutL
        (if s.cfg.dspBound then out.2.1 else inL)).bufWriteAll .dspOutR (if s.cfg.dspBound then out.2.2 else inR) := by
  unfold State.process
  split
  · simp only [State.dspProcess, State.noteInputs_eq]; rfl
  · simp only [State.bypassCopy, State.noteInputs_eq]

/-- The conversion of output buffers that were just written. -/
theorem State.convertOut_eq {s : State} {lo ro : List F32} (hl : lo.length = s.cfg.frames)
    (hr : ro.length = s.cfg.frames) :
    ((s.bufWriteAll .dspOutL lo).bufWriteAll .dspOutR ro).convertOut =
      (((s.bufWriteAll .dspOutL lo).bufWriteAll .dspOutR ro).setDraws
          (s.nanDraws + (lo.countP f32IsNan + ro.countP f32IsNan))).bufWriteAll (.outSlot s.selected)
        (interleaveWords lo ro s.nanDraws) := by
  have e1 : ((s.bufWriteAll .dspOutL lo).bufWriteAll .dspOutR ro).bufVals .dspOutL s.cfg.frames = lo := by
    rw [State.bufVals_congr (t := s.bufWriteAll .dspOutL lo) (State.buf_bufWriteAll_other (by simp) _ _), ← hl,
      State.bufVals_bufWriteAll]
  have e2 : ((s.bufWriteAll .dspOutL lo).bufWriteAll .dspOutR ro).bufVals .dspOutR s.cfg.frames = ro := by
    rw [← hr, State.bufVals_bufWriteAll]
  have n1 : ((s.bufWriteAll .dspOutL lo).bufWriteAll .dspOutR ro).noteReads .dspOutL s.cfg.frames
      = (s.bufWriteAll .dspOutL lo).bufWriteAll .dspOutR ro :=
    State.noteReads_of_written_other (by simp) _ (State.all_written_bufWriteAll _ _ _ (by omega))
  have n2 : ((s.bufWriteAll .dspOutL lo).bufWriteAll .dspOutR ro).noteReads .dspOutR s.cfg.frames
      = (s.bufWriteAll .dspOutL lo).bufWriteAll .dspOutR ro := State.noteReads_bufWriteAll _ _ _ (by omega)
  simp only [State.convertOut]
  simp only [show ((s.bufWriteAll .dspOutL lo).bufWriteAll .dspOutR ro).cfg = s.cfg from rfl, e1, e2, n1, n2]
  rw [drawsAfter_eq, countP_interleave (by omega)]
  rfl

/-- A produced block, given what `process` left. -/
theorem State.reqBlock_eq {s p : State} {lo ro : List F32} (hl : lo.length = s.cfg.frames)
    (hr : ro.length = s.cfg.frames) (hn : s.cfg.n = 2 * s.cfg.frames)
    (hp : s.process = (p.bufWriteAll .dspOutL lo).bufWriteAll .dspOutR ro) (hc : p.cfg = s.cfg) :
    s.reqBlock =
      ((((p.bufWriteAll .dspOutL lo).bufWriteAll .dspOutR ro).setDraws
            (p.nanDraws + (lo.countP f32IsNan + ro.countP f32IsNan))).bufWriteAll (.outSlot p.selected)
          (interleaveWords lo ro p.nanDraws)).flip.respond .ok
        (.request (BitVec.ofNat 32 s.cfg.n) (some (interleaveWords lo ro p.nanDraws))) := by
  have hs : s.selected = p.selected := by
    have h1 : s.process.activeIsA = p.activeIsA := by rw [hp]; rfl
    have h2 : s.process.activeIsA = s.activeIsA := by
      obtain ⟨f, d, h, lo, ro, -, -, e⟩ := State.process_spec s
      rw [e]; rfl
    simp [State.selected, ← h1, h2]
  have hlen : (interleaveWords lo ro p.nanDraws).length = s.cfg.n := by rw [length_interleaveWords (by omega)]; omega
  simp only [State.reqBlock, hp, State.convertOut_eq (s := p) (by rw [hc]; exact hl) (by rw [hc]; exact hr)]
  rw [hs, ← hlen, State.bufVals_bufWriteAll, State.noteReads_bufWriteAll _ _ _ (le_refl _)]

end Sys2Proof.Machine
end

