-- ==== Sys2Proof/Laws/Sequencer.lean ====
section
/-! SUPPORT. What the shared operations of the sequencer do, once each. -/

namespace Sys2Proof.Machine

/-- Writes one after another. -/
theorem State.wrAll_append (a b : List RegWrite) : ∀ s : State,
    s.wrAll (a ++ b) =
      match s.wrAll a with
      | (true, t) => t.wrAll b
      | (false, t) => (false, t) := by
  induction a with
  | nil => intro s; simp [State.wrAll]
  | cons w a ih =>
    intro s
    simp only [List.cons_append, State.wrAll]
    rcases s.wr w.addr w.val with ⟨_ | _, s'⟩
    · rfl
    · exact ih s'

/-- Writes do not read the sequencer's position. -/
theorem State.wrAll_setSeq (ws : List RegWrite) (p : SeqPos) (s : State) :
    (s.setSeq p).wrAll ws = ((s.wrAll ws).1, (s.wrAll ws).2.setSeq p) := by simp only [State.wrAll_eq]; rfl

/-- A command after its sequence of writes. -/
theorem finishWrites_wrAll (s : State) (ws : List RegWrite) :
    finishWrites (s.wrAll ws) =
      { s with
        operand := .empty
        bus := busAfter (issuedWrites (nextAcks ws.length s.bus)) s.bus
        history := s.history ++ writeEvents s.cfg ws (nextAcks ws.length s.bus)
        result := some (if nextAcks ws.length s.bus = List.replicate ws.length 2 then ⟨.ok, .flag true⟩
          else ⟨.busWriteFailure, .flag false⟩) } := by
  rw [finishWrites_eq, State.wrAll_eq]
  simp only [State.respond, reliableFor]
  congr 1; congr 1
  by_cases h : nextAcks ws.length s.bus = List.replicate ws.length 2 <;> simp only [h] <;> rfl

theorem pllTable_isSome (c : Config) :
    (pllTable c).isSome = decide (c.sampleRate = 48000 ∨ c.sampleRate = 44100) := by
  unfold pllTable
  split
  · simp [*]
  · split <;> simp [*]

/-- CODEC.PROBE is one sequence of writes: the bring-up sequence, or its head where the rate has no table. -/
theorem State.probe_eq (s : State) :
    s.probe =
      let r := s.wrAll ((bringUp s.cfg s.inputVolume).getD (bringUpHead s.cfg))
      (r.2.setSeq .idle).respond
        (if r.1 then (if (pllTable s.cfg).isSome then .ok else .rateUnsupported) else .busWriteFailure)
        (.flag (r.1 && (pllTable s.cfg).isSome)) := by
  unfold State.probe
  obtain ⟨p, hp⟩ := State.walk_eq (bringUpHead s.cfg) 0 s
  rw [hp]
  cases hpll : pllTable s.cfg with
  | none =>
    simp only [bringUp, hpll, Option.map_none, Option.getD_none, Option.isSome_none]
    rcases s.wrAll (bringUpHead s.cfg) with ⟨_ | _, t⟩ <;> rfl
  | some pll =>
    simp only [bringUp, hpll, Option.map_some, Option.getD_some, Option.isSome_some]
    rw [List.append_assoc, State.wrAll_append]
    rcases s.wrAll (bringUpHead s.cfg) with ⟨_ | _, t⟩
    · rfl
    · obtain ⟨q, hq⟩ := State.walk_eq (pll ++ bringUpTail s.cfg s.inputVolume) (bringUpHead s.cfg).length (t.setSeq p)
      simp only [hq, State.wrAll_setSeq]
      cases (t.wrAll (pll ++ bringUpTail s.cfg s.inputVolume)).1 <;> rfl

/-- The cache after an update of the channels that a selector names. -/
theorem State.updateVols_chans (h : Channel) (f : Byte → Byte) (s : State) :
    s.updateVols (chans h) f =
      { s with inputVolume :=
          ⟨if Side.left ∈ chans h then f s.inputVolume.left else s.inputVolume.left,
            if Side.right ∈ chans h then f s.inputVolume.right else s.inputVolume.right⟩ } := by
  rw [State.updateVols_eq]
  cases h <;> rfl

/-- CODEC.SET changes at most the ports, the bus, the history and the cache. -/
theorem State.setControl_frame (c : Control) (j : Jack) (h : Channel) (v : Int) (s : State) : ∃ b es iv r,
    s.setControl c j h v =
      { s with operand := .empty, result := some r, bus := b, history := s.history ++ es, inputVolume := iv } := by
  unfold State.setControl
  dsimp only
  split
  · exact ⟨s.bus, [], s.inputVolume, ⟨.unsupported, .flag false⟩, by simp [State.respond]⟩
  split
  · exact ⟨s.bus, [], s.inputVolume, ⟨.rangeViolation, .flag false⟩, by simp [State.respond]⟩
  split
  · rw [State.setInputVolume, State.updateVols_chans, finishWrites_wrAll]; exact ⟨_, _, _, _, rfl⟩
  · rw [State.setOutputVolume, finishWrites_wrAll]; exact ⟨_, _, s.inputVolume, _, rfl⟩
  · rw [State.setMute, State.updateVols_chans, finishWrites_wrAll]; exact ⟨_, _, _, _, rfl⟩
  · rw [State.setAlc]
    split
    · dsimp only; rw [finishWrites_wrAll]; exact ⟨_, _, _, _, rfl⟩
    · rw [finishWrites_wrAll]; exact ⟨_, _, s.inputVolume, _, rfl⟩

/-- A jack command changes at most the ports, the bus and the history. -/
theorem State.enableJack_frame (j : Jack) (s : State) : ∃ b es r,
    s.enableJack j = { s with operand := .empty, result := some r, bus := b, history := s.history ++ es } := by
  unfold State.enableJack
  split
  · rw [finishWrites_eq, State.wr_eq]; exact ⟨_, _, _, rfl⟩
  · exact ⟨s.bus, [], ⟨.ok, .flag true⟩, by simp [State.respond]⟩

/-- A jack command changes at most the ports, the bus and the history. -/
theorem State.disableJack_frame (j : Jack) (s : State) : ∃ b es r,
    s.disableJack j = { s with operand := .empty, result := some r, bus := b, history := s.history ++ es } := by
  unfold State.disableJack
  split
  · rw [finishWrites_eq, State.wr_eq]; exact ⟨_, _, _, rfl⟩
  · exact ⟨s.bus, [], ⟨.unsupported, .flag false⟩, by simp [State.respond]⟩

end Sys2Proof.Machine
end

