-- ==== Sys2Proof/Machine/Assembler.lean ====
section
/-! DEFINITION. The assembler's written form of a command (30_encoding.md R100) and of a pseudo-command (R101): the mnemonic,
then its fields and its operand payload, separated by commas. Of the forms R100 allows, fields are written by name and
numbers in hexadecimal (log 25). No step reads any of this. -/

namespace Sys2Proof.Machine

/-- The mnemonic of R96, as spec/opcode_table.json spells it. -/
def mnemonicOf (o : Opcode) : String :=
  match o with
  | .cvtDecLj => "CVT.DEC.LJ"
  | .cvtDecLo24 => "CVT.DEC.LO24"
  | .cvtEncLj => "CVT.ENC.LJ"
  | .cvtEncLo24 => "CVT.ENC.LO24"
  | .cvtTof => "CVT.TOF"
  | .cvtFromf => "CVT.FROMF"
  | .cvtDeint => "CVT.DEINT"
  | .cvtInt => "CVT.INT"
  | .pipeRecv => "PIPE.RECV"
  | .pipeReq => "PIPE.REQ"
  | .codecProbe => "CODEC.PROBE"
  | .codecEnjack => "CODEC.ENJACK"
  | .codecDisjack => "CODEC.DISJACK"
  | .codecInfo => "CODEC.INFO"
  | .codecSet => "CODEC.SET"
  | .midiByte => "MIDI.BYTE"
  | .midiPacket => "MIDI.PACKET"
  | .midiPoll => "MIDI.POLL"

/-- Names of the controls (R93). -/
def controlName (c : Control) : String :=
  match c with
  | .mute => "Mute"
  | .volume => "Volume"
  | .alc => "ALC"

/-- Names of the jacks (R94). -/
def jackName (j : Jack) : String :=
  match j with
  | .speaker => "Speaker"
  | .headphone => "Headphone"
  | .lineOut => "LineOut"
  | .microphone => "Microphone"
  | .defaultIn => "DefaultIn"
  | .defaultOut => "DefaultOut"

/-- Names of the channels (R95). -/
def channelName (h : Channel) : String :=
  match h with
  | .left => "Left"
  | .right => "Right"
  | .all => "All"

/-- One hexadecimal digit. -/
def hexDigit (d : BitVec 4) : Char :=
  if d.toNat < 10 then Char.ofNat (48 + d.toNat) else Char.ofNat (55 + d.toNat)

/-- A byte in hexadecimal. -/
def hexByte (b : Byte) : String := "0x" ++ String.ofList [hexDigit (b.extractLsb' 4 4), hexDigit (b.extractLsb' 0 4)]

/-- A word in hexadecimal. -/
def hexWord (w : Word) : String :=
  "0x" ++ String.ofList ([28, 24, 20, 16, 12, 8, 4, 0].map fun k => hexDigit (w.extractLsb' k 4))

/-- A sequence in brackets. -/
def seqText (ws : List Word) : String := "[" ++ String.intercalate ", " (ws.map hexWord) ++ "]"

/-- The fields of an instruction, in the order the assembler writes them. -/
def fieldTexts (i : Instr) : List String :=
  match i with
  | .cvtDecLj | .cvtDecLo24 | .cvtEncLj | .cvtEncLo24 | .cvtTof | .cvtFromf | .cvtDeint | .cvtInt => []
  | .pipeRecv | .pipeReq | .codecProbe | .midiPoll => []
  | .codecEnjack j | .codecDisjack j => [jackName j]
  | .codecInfo c j h | .codecSet c j h => [controlName c, jackName j, channelName h]
  | .midiByte b => [hexByte b]
  | .midiPacket p0 p1 p2 => [hexByte p0, hexByte p1, hexByte p2]

/-- The operand payload. -/
def payloadTexts (p : Payload) : List String :=
  match p with
  | .empty => []
  | .word w => [hexWord w]
  | .block ws => [seqText ws]
  | .channels l r => [seqText l, seqText r]
  | .lenBlock len ws => [hexWord len, seqText ws]

/-- A mnemonic and its arguments as one line. -/
def lineText (m : String) (args : List String) : String :=
  match args with
  | [] => m
  | _ :: _ => m ++ " " ++ String.intercalate ", " args

/-- The line of a command (R100). -/
def asmLine (i : Instr) (p : Payload) : String := lineText (mnemonicOf i.opcode) (fieldTexts i ++ payloadTexts p)

/-- The line of a pseudo-command (R101). -/
def pseudoLine (p : Pseudo) : String :=
  match p with
  | .midiFeed bs => lineText "MIDI.FEED" (bs.map hexByte)
  | .codecMute j h => lineText "CODEC.MUTE" [jackName j, channelName h]
  | .codecUnmute j h => lineText "CODEC.UNMUTE" [jackName j, channelName h]
  | .codecVol j h dB => lineText "CODEC.VOL" [jackName j, channelName h, hexWord dB]
  | .codecAlc on => lineText "CODEC.ALC" [hexWord on]

end Sys2Proof.Machine
end

