-- ==== Sys2Proof/Tests/Slice0.lean ====
section
/-! SUPPORT. Tests: expected values are those of spec/95_test_vectors.md or of the rule named; the OPEN parameters are bound to
that file's test binding TB here and nowhere else. Then, for each statement with hypotheses, a state and operands that meet
them. -/

namespace Sys2Proof.Tests

open Sys2Proof.Machine

/-! ## Fixtures -/

/-- The test binding TB (95_test_vectors.md section 0), at 48000 Hz. -/
def tb (n : Nat) (dsp : Bool) : Config where
  n := n
  sampleRate := 48000
  hasInput := true
  hasOutput := true
  dspBound := dsp
  busAddr := 0x1A
  midiPollMax := 5
  pwrTable := ⟨[⟨100, 3⟩], [⟨100, 2⟩], [⟨100, 1⟩], [⟨100, 0⟩]⟩
  mixTable := ⟨[⟨101, 3⟩], [⟨101, 2⟩], [⟨101, 1⟩], [⟨101, 0⟩]⟩
  pll44 := ⟨0, 0, 0, 0, 0⟩
  ctrlTable := [⟨102, 0⟩]
  ngTable := [⟨103, 0⟩]
  outVol := ⟨⟨110, 111⟩, ⟨112, 113⟩, ⟨114, 115⟩, ⟨120, 121⟩⟩
  spkBoost := ⟨104, 0⟩
  involReg := ⟨108, 109⟩
  routeTable := [⟨105, 0⟩]
  classdReg := 106
  classdOn := 1
  classdOff := 0
  alcOnTable := [⟨107, 1⟩]
  alcOffTable := [⟨107, 0⟩]

/-- A block fresh from reset, with a command word and payload on its port, and the bus answering as laid down. -/
def offer (c : Config) (acks : List (Fin 3)) (w : Word) (p : Payload) : State :=
  { State.resetWith c with pending := [⟨w, p⟩], bus := ⟨acks, 0⟩ }

/-- The state after one step. -/
def stepped (s : State) : State :=
  match step s with
  | .next t => t
  | .fault _ => s
  | .refused _ => s

/-- The two bytes of the bus writes in a history. -/
def busBytes (h : List Event) : List (Byte × Byte) :=
  h.filterMap fun e =>
    match e with
    | .busWrite _ b0 b1 _ => some (b0, b1)
    | .sink _ => none
    | .dspProcess => none
    | .sizeMismatch _ _ => none
    | .desync _ => none

/-- The sink calls in a history. -/
def sinks (h : List Event) : List SinkCall :=
  h.filterMap fun e =>
    match e with
    | .sink c => some c
    | .busWrite _ _ _ _ => none
    | .dspProcess => none
    | .sizeMismatch _ _ => none
    | .desync _ => none

/-- The result of a command word and payload, from reset. -/
def resultOf (n : Nat) (w : Word) (p : Payload) : Option Response := (stepped (offer (tb n false) [] w p)).result

/-! ## WellFormed: an ill-formed term for each check -/

theorem test_config_without_capability_refused :
    ({ tb 4 false with hasInput := false, hasOutput := false } : Config).legal = false := by decide
theorem test_config_odd_length_refused : (tb 5 false).legal = false := by decide
theorem test_config_zero_length_refused : (tb 0 false).legal = false := by decide
theorem test_config_legal : (tb 4 false).legal = true := by decide
theorem test_word_missing_refused : Instr.wellFormed (tb 4 false) (.codecSet .mute .microphone .left) .empty = false := by
  decide
theorem test_word_unwanted_refused : Instr.wellFormed (tb 4 false) .codecProbe (.word 0) = false := by decide
theorem test_block_short_refused : Instr.wellFormed (tb 4 false) .cvtDeint (.block [1, 2, 3]) = false := by decide
theorem test_channels_unequal_refused : Instr.wellFormed (tb 4 false) .cvtInt (.channels [0, 0] [0]) = false := by decide
theorem test_len_block_short_refused : Instr.wellFormed (tb 4 false) .pipeRecv (.lenBlock 4 [1, 2, 3]) = false := by decide

/-! ## Decode: words written out from 30_encoding.md R91 to R96 -/

theorem test_decode_cvt :
    decode 0b00000001000000000000000000000000 = .ok .cvtDecLj ∧ decode 0b00000010000000000000000000000000 = .ok .cvtDecLo24 ∧
    decode 0b00000011000000000000000000000000 = .ok .cvtEncLj ∧ decode 0b00000100000000000000000000000000 = .ok .cvtEncLo24 ∧
    decode 0b00000101000000000000000000000000 = .ok .cvtTof ∧ decode 0b00000110000000000000000000000000 = .ok .cvtFromf ∧
    decode 0b00000111000000000000000000000000 = .ok .cvtDeint ∧ decode 0b00001000000000000000000000000000 = .ok .cvtInt := by
  decide
theorem test_decode_pipe :
    decode 0b00010000000000000000000000000000 = .ok .pipeRecv ∧ decode 0b00010001000000000000000000000000 = .ok .pipeReq := by
  decide
/-- Format J: jack in bits 10 to 8; format K: control in 17 and 16, channel in 1 and 0. -/
theorem test_decode_codec :
    decode 0b00100000000000000000000000000000 = .ok .codecProbe ∧
    decode 0b00100001000000000000010100000000 = .ok (.codecEnjack .defaultOut) ∧
    decode 0b00100010000000000000000100000000 = .ok (.codecDisjack .headphone) ∧
    decode 0b00100011000000010000001100000010 = .ok (.codecInfo .volume .microphone .all) ∧
    decode 0b00100100000000100000010000000001 = .ok (.codecSet .alc .defaultIn .right) := by decide
/-- Format B: the byte in bits 7 to 0; format P: p0 in 23 to 16, p1 in 15 to 8, p2 in 7 to 0. -/
theorem test_decode_midi :
    decode 0b00110000000000000000000011111111 = .ok (.midiByte 0xFF) ∧
    decode 0b00110001110001010001000001111111 = .ok (.midiPacket 0xC5 0x10 0x7F) ∧
    decode 0b00110010000000000000000000000000 = .ok .midiPoll := by decide
/-- 95_test_vectors.md 2.5. -/
theorem test_decode_rejects :
    decode 0x00000000 = .error .reservedOpcode ∧ decode 0x09000000 = .error .reservedOpcode ∧
    decode 0xFF000000 = .error .reservedOpcode ∧ decode 0x01000001 = .error .reservedBits ∧
    decode 0x10800000 = .error .reservedBits ∧ decode 0x21000001 = .error .reservedBits ∧
    decode 0x21000600 = .error .reservedJack ∧ decode 0x22000700 = .error .reservedJack ∧
    decode 0x24030000 = .error .reservedControl ∧ decode 0x24010003 = .error .reservedChannel ∧
    decode 0x24040000 = .error .reservedBits ∧ decode 0x24010304 = .error .reservedBits ∧
    decode 0x30000100 = .error .reservedBits := by decide
/-- R91: three bytes, or five, are no command word. -/
theorem test_decode_bytes :
    decodeBytes [0x02, 0x03, 0x01, 0x23] = .ok (.codecInfo .volume .microphone .all) ∧
    decodeBytes [0x00, 0x00, 0x20] = .error .wordLength ∧ decodeBytes [0, 0, 0, 0x20, 0] = .error .wordLength := by decide
/-- The table's words reach the decoder and the next step. -/
theorem test_table_word : decodeTableWord 32 0x24010100 = some (.codecSet .volume .headphone .left) ∧
    (stepped (State.reset.withFetchWord 32 0x23010302)).result = some ⟨.ok, .info true 0xFFFFFFEF 30⟩ := by decide

/-! ## Converter (95_test_vectors.md 2.1) -/

theorem test_dec_lj : resultOf 4 0x01000000 (.word 0x12345678) = some ⟨.ok, .sample 0x123456⟩ := by decide
theorem test_dec_lj_discards_low_byte : resultOf 4 0x01000000 (.word 0x800000FF) = some ⟨.ok, .sample (-8388608)⟩ := by
  decide
theorem test_dec_lo24 : resultOf 4 0x02000000 (.word 0x7FFFFF00) = some ⟨.ok, .sample (-256)⟩ := by decide
theorem test_dec_lo24_ignores_high_byte : resultOf 4 0x02000000 (.word 0xAB000001) = some ⟨.ok, .sample 1⟩ := by decide
theorem test_enc_lj : resultOf 4 0x03000000 (.word (-1)) = some ⟨.ok, .word 0xFFFFFF00⟩ := by decide
theorem test_enc_lj_outside : resultOf 4 0x03000000 (.word (-8388609)) = some ⟨.ok, .word 0x7FFFFF00⟩ := by decide
theorem test_enc_lo24 : resultOf 4 0x04000000 (.word (-8388608)) = some ⟨.ok, .word 0x00800000⟩ := by decide
theorem test_enc_lo24_outside : resultOf 4 0x04000000 (.word 0x01000000) = some ⟨.ok, .word 0⟩ := by decide
theorem test_tof : resultOf 4 0x05000000 (.word 1193046) = some ⟨.ok, .float 0x3E11A2B0⟩ := by decide
/-- A tie goes to the even significand (D62). -/
theorem test_tof_tie : resultOf 4 0x05000000 (.word 16777217) = some ⟨.ok, .float 0x40000000⟩ := by decide
theorem test_fromf_clamps : resultOf 4 0x06000000 (.word 0x7F800000) = some ⟨.ok, .sample 8388599⟩ := by decide
theorem test_fromf_truncates : resultOf 4 0x06000000 (.word 0xBF7FFFFF) = some ⟨.ok, .sample (-8388607)⟩ := by decide
theorem test_deint : resultOf 4 0x07000000 (.block [0x12345678, 0x800000FF, 0x7FFFFFFF, 0x000000FF]) =
    some ⟨.ok, .channels [0x3E11A2B0, 0x3F7FFFFE] [0xBF800000, 0x00000000]⟩ := by decide
theorem test_deint_length : resultOf 4 0x07000000 (.block [1, 2, 3]) = some ⟨.illegalCommand, .empty⟩ := by decide
theorem test_int : resultOf 4 0x08000000 (.channels [0x3F7FFFED, 0x80000000] [0xB4400000, 0xFF800000]) =
    some ⟨.ok, .block [0x7FFFF600, 0xFFFFFF00, 0x00000000, 0x80000000]⟩ := by decide
/-- Each NaN takes its own draw. -/
theorem test_int_draws :
    (stepped (offer (tb 4 false) [] 0x08000000 (.channels [0x7FC00000, 0] [0, 0xFFFFFFFF]))).nanDraws = 2 := by decide

/-! ## Arbiter (95_test_vectors.md 2.2, 2.6) -/

/-- The state after row P-1, as that row gives it, with a command on the port. -/
def afterP1 (w : Word) (p : Payload) : State :=
  { offer (tb 4 false) [] w p with
    phase := .awaitOut
    bufs := ⟨[(0, 0x100), (1, 0xFFFFFF00), (2, 0x7FFFFF00), (3, 0x80000000)], [], [], [],
      [(0, 0x34000000), (1, 0x3F7FFFFE)], [(0, 0xB4000000), (1, 0xBF800000)], [], []⟩ }

/-- P-1. -/
theorem test_recv :
    let t := stepped (offer (tb 4 false) [] 0x10000000 (.lenBlock 4 [0x100, 0xFFFFFF00, 0x7FFFFF00, 0x80000000]))
    t.bufs = (afterP1 0 .empty).bufs ∧ t.activeIsA = true ∧ t.phase = .awaitOut ∧ t.result = some ⟨.ok, .empty⟩ ∧
    t.faults = ⟨false, false⟩ := by decide
/-- P-4. -/
theorem test_recv_mismatch :
    let t := stepped (offer (tb 4 false) [] 0x10000000 (.lenBlock 3 [1, 2, 3]))
    t.result = some ⟨.sizeMismatch, .empty⟩ ∧ t.history = [.sizeMismatch .IN 3] ∧ t.phase = .awaitOut ∧
    t.bufs = (State.resetWith (tb 4 false)).bufs := by decide
/-- P-2. -/
theorem test_req :
    let t := stepped (afterP1 0x11000000 (.word 4))
    t.result = some ⟨.ok, .request 4 (some [0x100, 0xFFFFFF00, 0x7FFFF700, 0x80000000])⟩ ∧ t.activeIsA = false ∧
    t.bufs.outSlotA = [(0, 0x100), (1, 0xFFFFFF00), (2, 0x7FFFF700), (3, 0x80000000)] ∧ t.phase = .awaitIn := by decide
/-- F-1: the order check, then the unwritten reads. -/
theorem test_req_first : (stepped (offer (tb 4 false) [] 0x11000000 (.word 4))).faults = ⟨true, true⟩ := by decide
/-- P-7, but for the NaN: the oracle's answer laid down. -/
theorem test_req_dsp :
    let s := { afterP1 0x11000000 (.word 4) with
      cfg := tb 4 true, dspState := ⟨0, none, [⟨[0x3F800000, 0x34800000], [0x3F000000, 0xC0A00000]⟩]⟩ }
    (stepped s).result = some ⟨.ok, .request 4 (some [0x7FFFF700, 0x40000000, 0x00000200, 0x80000000])⟩ ∧
    (stepped s).history = [.dspProcess] := by decide

/-! ## Sequencer (95_test_vectors.md 2.3) -/

/-- B-1: all eighteen transfers. -/
theorem test_probe :
    let t := stepped (offer (tb 4 false) (List.replicate 18 2) 0x20000000 .empty)
    t.result = some ⟨.ok, .flag true⟩ ∧
    busBytes t.history = [(0x1E, 0x00), (0xC8, 0x03), (0xCA, 0x03), (0x08, 0x05), (0x68, 0x38), (0x6A, 0x31),
      (0x6C, 0x26), (0x6E, 0xE8), (0xCC, 0x00), (0xCE, 0x00), (0xE1, 0x79), (0xE3, 0x79), (0xDD, 0x79), (0xDF, 0x79),
      (0xD0, 0x00), (0xD9, 0x16), (0xDB, 0x16), (0xD2, 0x00)] := by decide
/-- B-3 and B-5 in one: 32000 Hz ends after step 3; a sixth write answered 1 ends the sequence there. -/
theorem test_probe_ends :
    let u := stepped (offer { tb 4 false with sampleRate := 32000 } [2, 2, 2] 0x20000000 .empty)
    let v := stepped (offer (tb 4 false) [2, 2, 2, 2, 2, 1, 2] 0x20000000 .empty)
    u.result = some ⟨.rateUnsupported, .flag false⟩ ∧ busBytes u.history = [(0x1E, 0x00), (0xC8, 0x03), (0xCA, 0x03)] ∧
    v.result = some ⟨.busWriteFailure, .flag false⟩ ∧ (busBytes v.history).length = 6 ∧ v.seq = .idle := by decide
theorem test_enjack_speaker :
    let t := stepped (offer (tb 4 false) [1] 0x21000000 .empty)
    t.result = some ⟨.busWriteFailure, .flag false⟩ ∧ busBytes t.history = [(0xD4, 0x01)] := by decide
theorem test_enjack_other :
    let t := stepped (offer (tb 4 false) [] 0x21000100 .empty)
    t.result = some ⟨.ok, .flag true⟩ ∧ t.history = [] := by decide
theorem test_disjack_speaker :
    let t := stepped (offer (tb 4 false) [2] 0x22000000 .empty)
    t.result = some ⟨.ok, .flag true⟩ ∧ busBytes t.history = [(0xD4, 0x00)] := by decide
theorem test_disjack_other : resultOf 4 0x22000300 .empty = some ⟨.unsupported, .flag false⟩ := by decide
theorem test_info_output : resultOf 4 0x23010001 .empty = some ⟨.ok, .info true (-73) 6⟩ := by decide
theorem test_info_alc_one_channel : resultOf 4 0x23020300 .empty = some ⟨.ok, .info false 0 0⟩ := by decide
/-- S-23: the cache is updated before the first write, which fails. -/
theorem test_set_volume_no_rollback :
    let t := stepped (offer (tb 4 false) [1, 2] 0x24010302 (.word 10))
    t.result = some ⟨.busWriteFailure, .flag false⟩ ∧ t.inputVolume = ⟨0x24, 0x24⟩ ∧ busBytes t.history = [(0xD9, 0x24)] := by
  decide
/-- S-21. -/
theorem test_set_alc :
    let t := stepped { offer (tb 4 false) [2, 2, 2] 0x24020302 (.word 1) with inputVolume := ⟨0xA4, 0x0A⟩ }
    t.result = some ⟨.ok, .flag true⟩ ∧ t.inputVolume = ⟨0xA4, 0x24⟩ ∧
    busBytes t.history = [(0xD9, 0xA4), (0xDB, 0x24), (0xD6, 0x01)] := by decide

/-! ## Parser (95_test_vectors.md 2.4) -/

/-- A block with a DSP, in the middle of a message. -/
def midMessage (m : MState) (b0 b1 : Byte) (w : Word) : State :=
  { offer (tb 4 true) [] w .empty with mstate := m, mbuf := ⟨b0, b1, 0⟩ }

/-- M-3: a Note-On of velocity 0 is a Note-Off. -/
theorem test_byte_completes :
    let t := stepped (midMessage .awaitingData2 0x99 0x24 0x30000000)
    sinks t.history = [⟨3, 0, 0x80, 9, 0x24, 0x00⟩] ∧ t.mstate = .awaitingStatus := by decide
/-- M-2: a status byte in state 2 discards the message and starts another. -/
theorem test_byte_resync :
    let t := stepped (midMessage .awaitingData2 0x90 0x3C 0x30000080)
    sinks t.history = [] ∧ t.mstate = .awaitingData1 ∧ t.mbuf.b0 = 0x80 := by decide
/-- K-2. -/
theorem test_packet_two_byte :
    let t := stepped (midMessage .awaitingData2 0x90 0x3C 0x31D3407F)
    sinks t.history = [⟨2, 0, 0xD0, 3, 0x40, 0⟩] ∧ t.mstate = .awaitingData2 := by decide
/-- K-8: no byte is masked. -/
theorem test_packet_unmasked :
    sinks (stepped (offer (tb 4 true) [] 0x3190BCC0 .empty)).history = [⟨3, 0, 0x90, 0, 0xBC, 0xC0⟩] := by decide
/-- Q-3. -/
theorem test_poll :
    let t := stepped { offer (tb 4 true) [] 0x32000000 .empty with src := ⟨[[0x90, 0x3C, 0x64, 0xB0, 0x07]], 0⟩ }
    t.result = some ⟨.ok, .bytesRead 5⟩ ∧ sinks t.history = [⟨3, 0, 0x90, 0, 0x3C, 0x64⟩] ∧ t.mstate = .awaitingData2 ∧
    t.mbuf.b0 = 0xB0 ∧ t.mbuf.b1 = 0x07 := by decide
/-- A source with more than `MIDI_POLL_MAX` bytes keeps the rest. -/
theorem test_poll_max :
    let t := stepped { offer (tb 4 true) [] 0x32000000 .empty with src := ⟨[[1, 2, 3, 4, 5, 6, 7]], 0⟩ }
    t.result = some ⟨.ok, .bytesRead 5⟩ ∧ t.src.script = [[6, 7]] := by decide

/-- R100, R101. -/
theorem test_assembler_lines :
    asmLine (.codecSet .volume .headphone .left) (.word 6) = "CODEC.SET Volume, Headphone, Left, 0x00000006" ∧
    asmLine .pipeRecv (.lenBlock 2 [0x100, 0xFFFFFF00]) = "PIPE.RECV 0x00000002, [0x00000100, 0xFFFFFF00]" ∧
    pseudoLine (.midiFeed [0x90, 0x3C]) = "MIDI.FEED 0x90, 0x3C" := by decide

/-! ## Witnesses: hypotheses of each statement met together -/

/-- A command with an operand on the port: the state in which `exec` runs. -/
def loaded (c : Config) (acks : List (Fin 3)) (p : Payload) : State :=
  { State.resetWith c with operand := p, bus := ⟨acks, 0⟩ }

/-- `exec` answers a next state. -/
def answers (o : Host.Outcome State Fault Refusal) : Bool :=
  match o with
  | .next _ => true
  | .fault _ => false
  | .refused _ => false

theorem test_witness_DecodedWordIsTheEncoding : decode 0x24020302 = .ok (.codecSet .alc .microphone .all) := by decide

theorem test_witness_StepRunsTheDecodedCommand :
    let s := offer (tb 4 false) [] 0x11000000 (.word 4)
    s.cfg.legal = true ∧ s.pending = ⟨0x11000000, .word 4⟩ :: [] ∧ decode 0x11000000 = .ok .pipeReq := by decide

theorem test_witness_IllegalCommandChangesNothing :
    let s := offer (tb 4 false) [] 0x10000001 (.lenBlock 0 [])
    (s.cfg.legal = true ∧ s.pending = ⟨0x10000001, .lenBlock 0 []⟩ :: [] ∧
      decode 0x10000001 = .error .reservedBits) ∧
    Instr.wellFormed (tb 4 false) .cvtInt (loaded (tb 4 false) [] (.channels [0, 0] [0])).operand = false := by decide

/-- Each clause of the configuration, and none of them. -/
theorem test_witness_RefusedConfigurationRunsNothing :
    (({ tb 4 false with hasInput := false, hasOutput := false } : Config).hasInput = false ∧
      ({ tb 4 false with hasInput := false, hasOutput := false } : Config).hasOutput = false) ∧
    (tb 1 false).n % 2 = 1 ∧ (tb 0 false).n = 0 ∧
    ¬ (((tb 2 false).hasInput = false ∧ (tb 2 false).hasOutput = false) ∨ (tb 2 false).n % 2 = 1 ∨ (tb 2 false).n = 0) := by
  decide

theorem test_witness_EveryCommandAnswersItsIssuer :
    (stepped (offer (tb 4 false) [0] 0x21000000 .empty)).result = some ⟨.busWriteFailure, .flag false⟩ ∧
    (stepped (offer (tb 4 false) [] 0x11000000 (.word 3))).result = some ⟨.sizeMismatch, .request 0 none⟩ ∧
    (tb 4 false).n ≠ 0 := by decide

/-- A state inside a message, with written buffers and a muted channel, whose next byte completes the message. -/
def invState : State :=
  { afterP1 0x30000064 .empty with
    inputVolume := ⟨0xBE, 0x00⟩, mstate := .awaitingData2, mbuf := ⟨0x90, 0x3C, 0⟩ }

theorem test_witness_invState : invState.Inv where
  bufs := by decide
  inputsNoNan := by decide
  cacheLeft := by decide
  cacheRight := by decide
  idle := rfl
  operand := rfl
  status := by decide
  data := by decide

theorem test_witness_EveryStepKeepsInvariant : invState.Inv ∧ ∃ t, step invState = .next t :=
  ⟨test_witness_invState, _, rfl⟩

theorem test_witness_FaultsAreSticky :
    (answers (step (offer (tb 4 false) [] 0x20000000 .empty)) = true ∧
      faultHas .unwrittenRead ({ offer (tb 4 false) [] 0x20000000 .empty with faults := ⟨true, false⟩ } : State).faults
        = true) ∧
    ∃ t, runFrom (tb 4 false) [⟨0x11000000, .word 3⟩] = .next t ∧ faultHas .orderViolation t.faults = true :=
  ⟨by decide, _, rfl, by decide⟩

theorem test_witness_ResetValues : ∃ t, step (offer (tb 4 false) [] 0x11000000 (.word 4)) = .next t := ⟨_, rfl⟩

/-- A step with a DSP bound: the setup stays while the DSP's state changes. -/
theorem test_witness_DspIsBuiltFromTheConfiguration :
    ∃ t, step (offer (tb 2 true) [] 0x11000000 (.word 2)) = .next t ∧ t.history = [Event.dspProcess] ∧
      (t.dspState.setup.map fun d => (d.framesPerBlock, d.outL, d.inR)) = some (1, .dspOutL, .dspInR) :=
  ⟨_, rfl, by decide, by decide⟩

theorem test_witness_HistoryOnlyGrows :
    ∃ t, step (offer (tb 4 false) [1] 0x21000000 .empty) = .next t ∧ t.history ≠ [] := ⟨_, rfl, by decide⟩

/-- A request of the right length flips; one of another length does not. -/
theorem test_witness_OnlyASuccessfulRequestFlips :
    (∃ t, step (offer (tb 4 false) [] 0x11000000 (.word 4)) = .next t ∧ t.activeIsA = false) ∧
    ∃ t, step (offer (tb 4 false) [] 0x11000000 (.word 5)) = .next t ∧ t.activeIsA = true :=
  ⟨⟨_, rfl, by decide⟩, _, rfl, by decide⟩

/-- Each clause: a step that changes the unit's state. -/
theorem test_witness_EachUnitChangesOnlyItsOwnState :
    (∃ t, step (offer (tb 2 false) [] 0x10000000 (.lenBlock 2 [1, 2])) = .next t ∧ t.bufs.inSlotA ≠ [] ∧
      t.phase ≠ .awaitIn) ∧
    (∃ t, step (offer (tb 2 false) [] 0x11000000 (.word 3)) = .next t ∧ t.faults ≠ ⟨false, false⟩) ∧
    (∃ t, step (offer (tb 4 false) [2] 0x24010300 (.word 30)) = .next t ∧ t.inputVolume ≠ ⟨0x16, 0x16⟩ ∧
      t.bus ≠ ⟨[2], 0⟩) ∧
    (∃ t, step (midMessage .awaitingData1 0x90 0 0x30000001) = .next t ∧ t.mstate ≠ .awaitingData1 ∧
      t.mbuf ≠ ⟨0x90, 0, 0⟩) ∧
    (∃ t, step { offer (tb 4 true) [] 0x32000000 .empty with src := ⟨[[]], 0⟩ } = .next t ∧ t.src ≠ ⟨[[]], 0⟩) ∧
    ∃ t, step { offer (tb 2 true) [] 0x11000000 (.word 2) with dspState := ⟨0, none, [⟨[0], [0]⟩]⟩ } = .next t ∧
      t.dspState.script ≠ [⟨[0], [0]⟩] :=
  ⟨⟨_, rfl, by decide, by decide⟩, ⟨_, rfl, by decide⟩, ⟨_, rfl, by decide, by decide⟩,
    ⟨_, rfl, by decide, by decide⟩, ⟨_, rfl, by decide⟩, _, rfl, by decide⟩

/-- For DecLjShiftsRight, DecLo24SignExtends, EncLjKeepsLow24, EncLo24KeepsLow24, TofScalesTheNearestFloat,
FromfClampsAndTruncates. -/
theorem test_witness_word_operand : (loaded (tb 4 false) [] (.word 0x80000000)).operand = .word 0x80000000 := rfl

theorem test_witness_ConventionsRoundTrip :
    (-8388608 ≤ (0xFF800000 : Word).toInt ∧ (0xFF800000 : Word).toInt ≤ 8388607) ∧
    (-8388608 ≤ (0x007FFFFF : Word).toInt ∧ (0x007FFFFF : Word).toInt ≤ 8388607) := by decide

/-- Zero, the ends of the exact range (the lower end of the rounded one) and the end of the rounded one. -/
theorem test_witness_TofScalesTheNearestFloat :
    (loaded (tb 4 false) [] (.word 0)).operand = .word 0 ∧ toFloat 0 = 0 ∧
    (0x01000000 : Word).toInt.natAbs ≤ 2 ^ 24 ∧ 2 ^ 24 ≤ (0x01000000 : Word).toInt.natAbs ∧
    toFloat 0x01000000 = 0x40000000 ∧ (0xFF000000 : Word).toInt.natAbs ≤ 2 ^ 24 ∧
    2 ^ 24 ≤ (0x80000000 : Word).toInt.natAbs ∧ toFloat 0x80000000 = 0xC3800000 := by decide

/-- A NaN; the clamp bounds, which meet the clause of the bound and that of the middle; a number in the middle. -/
theorem test_witness_FromfClampsAndTruncates :
    f32IsNan 0x7F800001 = true ∧
    (f32IsNan 0x3F7FFFEF = false ∧ f32Units 0x3F7FFFEF ≤ f32Units 0x3F7FFFEF ∧
      (fromFloatNum 0x3F7FFFEF).toInt = 8388599 ∧ (f32Units 0x3F7FFFEF * 2 ^ 23).tdiv (2 ^ 149) = 8388599) ∧
    (f32IsNan 0xBF800000 = false ∧ (fromFloatNum 0xBF800000).toInt = -8388608 ∧
      (f32Units 0xBF800000 * 2 ^ 23).tdiv (2 ^ 149) = -8388608) ∧
    (f32IsNan 0x7F800000 = false ∧ f32Units 0x3F7FFFEF ≤ f32Units 0x7F800000) ∧
    (f32IsNan 0xFF800000 = false ∧ f32Units 0xFF800000 ≤ f32Units 0xBF800000) ∧
    (f32IsNan 0x34400000 = false ∧ f32Units 0xBF800000 ≤ f32Units 0x34400000 ∧
      f32Units 0x34400000 ≤ f32Units 0x3F7FFFEF ∧ (fromFloatNum 0x34400000).toInt = 1) := by decide

/-- Both sides of the bound of the scale law (95_test_vectors.md, "Scale law"). -/
theorem test_witness_ScaleLaw :
    (-8388608 ≤ (8388599 : Word).toInt ∧ (8388599 : Word).toInt ≤ 8388599 ∧ fromFloat (toFloat 8388599) 0 = 8388599) ∧
    (8388600 ≤ (8388600 : Word).toInt ∧ (8388600 : Word).toInt ≤ 8388607 ∧ (fromFloat (toFloat 8388600) 0).toInt = 8388599) ∧
    (8388600 ≤ (8388607 : Word).toInt ∧ (fromFloat (toFloat 8388607) 0).toInt = 8388599) := by decide

theorem test_witness_ConverterRanges :
    (-8388608 ≤ (0x007FFFFF : Word).toInt ∧ (0x007FFFFF : Word).toInt ≤ 8388607) ∧ f32IsNan 0xFF800000 = false := by decide

theorem test_witness_FromfSaturatesAndIsOdd :
    (f32IsNan 0x7F800000 = false ∧ f32Units 0x3F7FFFEF ≤ f32Units 0x7F800000) ∧
    (f32IsNan 0xBF800001 = false ∧ f32Units 0xBF800001 ≤ f32Units 0xBF800000) ∧ f32IsNan 0x3F7FFFEF = false ∧ f32Mag 0x3F7FFFEF ≤ f32Mag 0x3F7FFFEF ∧
    (fromFloat (0x3F7FFFEF ^^^ 0x80000000) 0).toInt = -8388599 := by decide

theorem test_witness_DeintSplitsTheBlock :
    let s := loaded (tb 2 false) [] (.block [0x80000000, 0x40000000])
    s.cfg.n % 2 = 0 ∧ s.operand = .block [0x80000000, 0x40000000] ∧ [0x80000000, (0x40000000 : Word)].length = s.cfg.n ∧
    0 < s.cfg.n / 2 ∧ [(1 : Word)].length ≠ s.cfg.n := by decide

theorem test_witness_IntInterleavesTheChannels :
    let s := loaded (tb 4 false) [] (.channels [0x7FC00000, 0] [0xFFFFFFFF, 0])
    s.cfg.n % 2 = 0 ∧ s.operand = .channels [0x7FC00000, 0] [0xFFFFFFFF, 0] ∧
    [0x7FC00000, (0 : F32)].length = s.cfg.n / 2 ∧ [0xFFFFFFFF, (0 : F32)].length = s.cfg.n / 2 ∧
    [0x7FC00000, (0 : F32)][1]? = some 0 ∧ [0xFFFFFFFF, (0 : F32)][0]? = some 0xFFFFFFFF ∧
    [(0 : F32)].length ≠ s.cfg.n / 2 := by decide

theorem test_witness_ConverterTouchesNoBlockState :
    Instr.cvtFromf ∈ [Instr.cvtDecLj, .cvtDecLo24, .cvtEncLj, .cvtEncLo24, .cvtTof, .cvtFromf, .cvtDeint, .cvtInt] ∧
    ∃ t, exec .cvtFromf (loaded (tb 4 false) [] (.word 0x7FC00000)) = .next t := ⟨by decide, _, rfl⟩

/-- A block of no words, one of a word too many, and one of the right length, with an index on each side of the ranges'
ends. -/
theorem test_witness_RecvDeliversOrDropsTheBlock :
    ((loaded (tb 4 false) [] (.lenBlock 0 [])).operand = .lenBlock 0 [] ∧ ([] : List Word).length = (0 : Word).toNat ∧
      (0 : Word).toNat ≠ (tb 4 false).n) ∧
    ([1, 2, 3, 4, (5 : Word)].length = (5 : Word).toNat ∧ (5 : Word).toNat ≠ (tb 4 false).n) ∧
    let s := loaded (tb 4 false) [] (.lenBlock 4 [0x100, 0xFFFFFF00, 0x7FFFFF00, 0x80000000])
    s.cfg.n % 2 = 0 ∧ s.operand = .lenBlock 4 [0x100, 0xFFFFFF00, 0x7FFFFF00, 0x80000000] ∧
    [0x100, 0xFFFFFF00, 0x7FFFFF00, (0x80000000 : Word)].length = (4 : Word).toNat ∧ (4 : Word).toNat = s.cfg.n ∧
    (3 < s.cfg.n ∧ ¬ 4 < s.cfg.n) ∧ (1 < s.cfg.n / 2 ∧ ¬ 2 < s.cfg.n / 2) ∧
    BufId.outSlot .A ∉ [BufId.inSlot .A, .dspInL, .dspInR] := by decide

theorem test_witness_ReqProducesTheBlockOrNothing :
    ((loaded (tb 4 false) [] (.word 3)).operand = .word 3 ∧ (3 : Word).toNat ≠ (tb 4 false).n) ∧
    (tb 4 true).n % 2 = 0 ∧ (loaded (tb 4 true) [] (.word 4)).operand = .word 4 ∧ (4 : Word).toNat = (tb 4 true).n ∧
    BufId.inSlot .A ∉ [BufId.outSlot .A, .dspOutL, .dspOutR] := by decide

theorem test_witness_PipeOrderIsTracked :
    Instr.pipeRecv.wellFormed (tb 4 false) (.lenBlock 2 [1, 2]) = true ∧
    Instr.pipeReq.wellFormed (tb 4 false) (.word 9) = true := by decide

theorem test_witness_BypassFidelity :
    (tb 4 false).dspBound = false ∧ (tb 4 false).n % 2 = 0 ∧
    [0x7FFFF700, 0x7FFFF800, 0x00000080, (0xFFFFFE00 : Word)].length = (tb 4 false).n ∧ (4 : Word).toNat = (tb 4 false).n ∧
    ([0x7FFFF700, 0x7FFFF800, 0x00000080, (0xFFFFFE00 : Word)][0]? = some 0x7FFFF700 ∧
      ((0x7FFFF700 : Word).sshiftRight 8).toInt ≤ 8388599) ∧
    ([0x7FFFF700, 0x7FFFF800, 0x00000080, (0xFFFFFE00 : Word)][1]? = some 0x7FFFF800 ∧
      ¬ ((0x7FFFF800 : Word).sshiftRight 8).toInt ≤ 8388599) := by decide

theorem test_witness_DroppedBlockRepeatsTheOutput :
    let s := afterP1 0 .empty
    s.cfg.dspBound = false ∧ s.cfg.n % 2 = 0 ∧ (4 : Word).toNat = s.cfg.n ∧ (3 : Word).toNat ≠ s.cfg.n ∧
    [0, 0, (0 : Word)].length = (3 : Word).toNat ∧ nanFree s.bufs.dspInL = true ∧ nanFree s.bufs.dspInR = true ∧
    ∀ i, i < s.cfg.n / 2 → s.written .dspInL i = true ∧ s.written .dspInR i = true := by decide

/-- No block, and two blocks. -/
theorem test_witness_StrictAlternationVisitsSlotsInTurn :
    (tb 2 true).legal = true ∧ (tb 2 true).n < 2 ^ 32 ∧ (∀ ws ∈ ([] : List (List Word)), ws.length = (tb 2 true).n) ∧
    ∀ ws ∈ [[1, 2], [3, (4 : Word)]], ws.length = (tb 2 true).n := by decide

/-- For ProbeWalksTheBringUpTable, EnableJack, DisableJack, InfoReportsTheRanges, MidiPacketDispatches,
PollRunsMidiByteOnEachByte; Speaker and another jack. -/
theorem test_witness_empty_operand :
    (loaded (tb 4 true) [2] .empty).operand = .empty ∧ Jack.speaker = .speaker ∧ Jack.headphone ≠ .speaker := by decide

/-- Unsupported; just below and just above a range. -/
theorem test_witness_SetRefusesBeforeAnyEffect :
    (controlInfo .mute .speaker .left).1 = false ∧
    ((controlInfo .volume .microphone .all).1 = true ∧
      (0xFFFFFFEE : Word).toInt < (controlInfo .volume .microphone .all).2.1) ∧
    ((controlInfo .volume .headphone .left).1 = true ∧
      (controlInfo .volume .headphone .left).2.2 < (7 : Word).toInt) := by decide

/-- Both ends of the range, on each input jack. -/
theorem test_witness_SetInputVolume :
    ((Jack.microphone = .microphone ∨ Jack.microphone = .defaultIn) ∧ -17 ≤ (0xFFFFFFEF : Word).toInt ∧
      (0xFFFFFFEF : Word).toInt ≤ 30) ∧
    ((Jack.defaultIn = .microphone ∨ Jack.defaultIn = .defaultIn) ∧ -17 ≤ (30 : Word).toInt ∧ (30 : Word).toInt ≤ 30) ∧
    (loaded (tb 4 false) [2, 0] (.word 30)).operand = .word 30 := by decide

/-- Both ends of the range. -/
theorem test_witness_SetOutputVolume :
    (outJack .headphone = some .headphone ∧ -73 ≤ (0xFFFFFFB7 : Word).toInt ∧ (0xFFFFFFB7 : Word).toInt ≤ 6) ∧
    (outJack .defaultOut = some .defaultOut ∧ -73 ≤ (6 : Word).toInt ∧ (6 : Word).toInt ≤ 6) ∧
    (loaded (tb 4 false) [2] (.word 6)).operand = .word 6 := by decide

/-- For SetMute and SetAlc: both values. -/
theorem test_witness_SetMute_SetAlc :
    (Jack.defaultIn = .microphone ∨ Jack.defaultIn = .defaultIn) ∧ ((0 : Word) = 0 ∨ (0 : Word) = 1) ∧
    ((1 : Word) = 0 ∨ (1 : Word) = 1) ∧ (loaded (tb 4 false) [2, 2, 0] (.word 1)).operand = .word 1 := by decide

/-- Three writes of which the second is not acknowledged: two are issued. -/
theorem test_witness_NoWriteAfterAFailure :
    let acks := nextAcks 3 (loaded (tb 4 false) [2, 1, 2] .empty).bus
    acks = [2, 1, 2] ∧ 0 + 1 < issuedWrites acks ∧ issuedWrites acks < 3 := by decide

theorem test_witness_VolumeCodes :
    ((inputCode (-17)).toNat = 0 ∧ (inputCode 30).toNat = 62 ∧ (inputCode (-14)).toNat = 4) ∧
    ((outputCode (-73)).toNat = 0x30 ∧ (outputCode 6).toNat = 0x7F) := by decide

theorem test_witness_MuteRoundTripRestoresTheCache :
    (Jack.microphone = .microphone ∨ Jack.microphone = .defaultIn) ∧
    ∀ c ∈ chans .all, (sideOf (State.resetWith (tb 4 false)).inputVolume c).getLsbD 7 = false := by decide

theorem test_witness_SequencerFrame :
    Instr.codecSet .volume .microphone .all ∈ [Instr.codecProbe, .codecEnjack .microphone, .codecDisjack .microphone,
      .codecInfo .volume .microphone .all, .codecSet .volume .microphone .all] ∧
    ∃ t, exec (.codecSet .volume .microphone .all) (loaded (tb 4 false) [2, 2] (.word 10)) = .next t :=
  ⟨by decide, _, rfl⟩

/-- The five clauses: an accepted and another status byte, and a data byte in each state of the parser. -/
theorem test_witness_MidiByteStateMachine :
    (loaded (tb 4 true) [] .empty).operand = .empty ∧
    (128 ≤ (0x80 : Byte).toNat ∧ (0x80 : Byte).toNat / 16 = 0x8) ∧
    (128 ≤ (0xFF : Byte).toNat ∧
      ¬ ((0xFF : Byte).toNat / 16 = 0x8 ∨ (0xFF : Byte).toNat / 16 = 0x9 ∨ (0xFF : Byte).toNat / 16 = 0xB)) ∧
    ((0x7F : Byte).toNat < 128 ∧ (loaded (tb 4 true) [] .empty).mstate = .awaitingStatus) ∧
    (midMessage .awaitingData1 0x90 0 0).mstate = .awaitingData1 ∧
    (midMessage .awaitingData2 0x90 0 0).mstate = .awaitingData2 := by decide

theorem test_witness_ThreeBytesMakeOneMessage :
    let s := midMessage .awaitingData1 0xB0 0 0
    s.operand = .empty ∧ s.cfg.dspBound = true ∧ (0x9F : Byte).toNat / 16 = 0x9 ∧ (0x7F : Byte).toNat < 128 ∧
    (0 : Byte).toNat < 128 := by decide

theorem test_witness_DispatchTable :
    (State.resetWith (tb 4 false)).cfg.dspBound = false ∧ (State.resetWith (tb 4 true)).cfg.dspBound = true := by decide

/-- A byte that completes a message, alone or polled, in a state of the invariant with a DSP. -/
theorem test_witness_BytePathForwardsThreeByteMessages :
    let s : State := { invState with cfg := tb 4 true, src := ⟨[[0x64]], 0⟩ }
    s.Inv ∧
    (∃ t, exec (.midiByte 0x64) s = .next t ∧ t.history = [] ++ [Event.sink ⟨3, 0, 0x90, 0, 0x3C, 0x64⟩]) ∧
    ∃ t, exec .midiPoll s = .next t ∧ t.history = [] ++ [Event.sink ⟨3, 0, 0x90, 0, 0x3C, 0x64⟩] :=
  ⟨⟨by decide, by decide, by decide, by decide, rfl, rfl, by decide, by decide⟩, ⟨_, rfl, by decide⟩, _, rfl, by decide⟩

theorem test_witness_ParserFrame :
    Instr.midiPoll ∈ [Instr.midiByte 0x90, .midiPacket 0xC5 0x10 0x00, .midiPoll] ∧
    ∃ t, exec .midiPoll { loaded (tb 4 false) [] .empty with src := ⟨[[0x90, 0x3C]], 0⟩ } = .next t :=
  ⟨by decide, _, rfl⟩

theorem test_witness_ParserAndArbiterCommute :
    (Instr.pipeReq = .pipeRecv ∨ Instr.pipeReq = .pipeReq) ∧ (State.resetWith (tb 4 false)).cfg.dspBound = false := by decide

end Sys2Proof.Tests
end

/-! SUPPORT. The fault record of 10_state.md R46 only grows: what an operation can do to it, what a command can do to it, what
a step can do to it, and the obligation O14. -/

namespace Sys2Proof.Machine

/-! ## The fault record as a set -/

/-- Every kind recorded in `f` is recorded in `g`. -/
def FaultSet.Subset (f g : FaultSet) : Prop := ∀ k, faultHas k f = true → faultHas k g = true

theorem FaultSet.Subset.refl (f : FaultSet) : f.Subset f := fun _ h => h

theorem FaultSet.Subset.of_eq {f g : FaultSet} (h : g = f) : f.Subset g := h ▸ .refl f

theorem FaultSet.Subset.trans {f g h : FaultSet} (hfg : f.Subset g) (hgh : g.Subset h) : f.Subset h :=
  fun k hk => hgh k (hfg k hk)

theorem FaultSet.subset_faultAdd (k : Fault) (f : FaultSet) : f.Subset (faultAdd k f) := fun j => faultAdd_keeps k j f

/-- Adding a kind records that kind, and changes the record of no other. -/
theorem faultHas_faultAdd_eq (k j : Fault) (f : FaultSet) :
    faultHas j (faultAdd k f) = (decide (j = k) || faultHas j f) := by
  cases k <;> cases j <;> rfl

/-- A clean state has no kind recorded. -/
theorem State.faultHas_of_clean {s : State} (h : s.clean) (k : Fault) : faultHas k s.faults = false := by
  rw [State.clean] at h
  cases k <;> rw [h] <;> rfl

/-! ## Shared operations -/

@[simp] theorem State.bufWriteAll_faults (b : BufId) (ws : List Word) (s : State) :
    (s.bufWriteAll b ws).faults = s.faults := rfl

theorem State.checkOrder_keeps_faults (want : Phase) (s : State) : s.faults.Subset (s.checkOrder want).faults := by
  unfold State.checkOrder
  split
  · exact .refl _
  · exact FaultSet.subset_faultAdd _ _

theorem State.noteReads_keeps_faults (b : BufId) (n : Nat) (s : State) :
    s.faults.Subset (s.noteReads b n).faults := by
  unfold State.noteReads
  split
  · exact .refl _
  · exact FaultSet.subset_faultAdd _ _

/-- A command over one word keeps the faults when its body does: the other outcome is `ILLEGAL_COMMAND`. -/
theorem State.onWord_keeps_faults {s : State} {f : Word → State} (h : ∀ w, s.faults.Subset (f w).faults) :
    s.faults.Subset (s.onWord f).faults := by
  unfold State.onWord
  split
  · exact h _
  all_goals exact .refl _

/-- A command without operands keeps the faults when its body does: the other outcome is `ILLEGAL_COMMAND`. -/
theorem State.onEmpty_keeps_faults {s t : State} (h : s.faults.Subset t.faults) :
    s.faults.Subset (s.onEmpty t).faults := by
  unfold State.onEmpty
  split
  · exact h
  all_goals exact .refl _

/-! ## The arbiter -/

/-- Two buffers read one after the other. -/
theorem State.noteReads_noteReads_keeps_faults (b c : BufId) (n : Nat) (s : State) :
    s.faults.Subset ((s.noteReads b n).noteReads c n).faults :=
  (State.noteReads_keeps_faults b n s).trans (State.noteReads_keeps_faults c n _)

theorem State.recvBlock_keeps_faults (ws : List Word) (s : State) : s.faults.Subset (s.recvBlock ws).faults := by
  simp only [State.recvBlock, State.respond_faults, State.bufWriteAll_faults]
  exact State.noteReads_keeps_faults _ _ (s.bufWriteAll (.inSlot s.selected) ws)

theorem State.process_keeps_faults (s : State) : s.faults.Subset s.process.faults := by
  unfold State.process
  split
  · simp only [State.dspProcess, State.bufWriteAll_faults, State.setDsp_faults, State.emit_faults]
    exact State.noteReads_noteReads_keeps_faults _ _ _ s
  · simp only [State.bypassCopy, State.bufWriteAll_faults]
    exact State.noteReads_noteReads_keeps_faults _ _ _ s

theorem State.convertOut_keeps_faults (s : State) : s.faults.Subset s.convertOut.faults := by
  simp only [State.convertOut, State.bufWriteAll_faults, State.setDraws_faults]
  exact State.noteReads_noteReads_keeps_faults _ _ _ s

theorem State.reqBlock_keeps_faults (s : State) : s.faults.Subset s.reqBlock.faults := by
  simp only [State.reqBlock, State.respond_faults, State.flip_faults]
  exact s.process_keeps_faults.trans <| s.process.convertOut_keeps_faults.trans (State.noteReads_keeps_faults _ _ _)

theorem State.recv_keeps_faults (len : Word) (ws : List Word) (s : State) : s.faults.Subset (s.recv len ws).faults := by
  have hOrder : s.faults.Subset ((s.checkOrder .awaitIn).setPhase .awaitOut).faults := s.checkOrder_keeps_faults _
  unfold State.recv
  dsimp only
  split
  · exact hOrder.trans (State.recvBlock_keeps_faults ws _)
  · exact hOrder

theorem State.req_keeps_faults (len : Word) (s : State) : s.faults.Subset (s.req len).faults := by
  have hOrder : s.faults.Subset ((s.checkOrder .awaitOut).setPhase .awaitIn).faults := s.checkOrder_keeps_faults _
  unfold State.req
  dsimp only
  split
  · exact hOrder.trans (State.reqBlock_keeps_faults _)
  · exact hOrder

/-! ## The other families leave the record as it is -/

@[simp] theorem State.dispatch_faults (st d1 d2 : Byte) (s : State) : (s.dispatch st d1 d2).faults = s.faults := by
  obtain ⟨d, h, e⟩ := State.dispatch_frame st d1 d2 s
  rw [e]

@[simp] theorem State.midiStep_faults (s : State) (b : Byte) : (s.midiStep b).faults = s.faults := by
  obtain ⟨m, mb, d, h, e⟩ := State.midiStep_frame s b
  rw [e]

@[simp] theorem State.poll_faults (s : State) : s.poll.faults = s.faults := by
  obtain ⟨m, mb, d, h, e⟩ := State.midiSteps_frame (srcAnswer s.cfg.midiPollMax s.src).1
    (s.setSrc (srcAnswer s.cfg.midiPollMax s.src).2)
  simp only [State.poll, e, State.respond_faults, State.setSrc_faults]

@[simp] theorem State.probe_faults (s : State) : s.probe.faults = s.faults := by
  obtain ⟨b, h, st, ok, e⟩ := s.probe_frame
  rw [e]

@[simp] theorem State.enableJack_faults (j : Jack) (s : State) : (s.enableJack j).faults = s.faults := by
  obtain ⟨b, es, r, e⟩ := State.enableJack_frame j s
  rw [e]

@[simp] theorem State.disableJack_faults (j : Jack) (s : State) : (s.disableJack j).faults = s.faults := by
  obtain ⟨b, es, r, e⟩ := State.disableJack_frame j s
  rw [e]

@[simp] theorem State.setControl_faults (c : Control) (j : Jack) (h : Channel) (v : Int) (s : State) :
    (s.setControl c j h v).faults = s.faults := by
  obtain ⟨b, es, iv, r, e⟩ := State.setControl_frame c j h v s
  rw [e]

/-! ## One command, one step -/

/-- No command removes a recorded kind. -/
theorem exec_keeps_faults (i : Instr) {s t : State} (h : exec i s = .next t) : s.faults.Subset t.faults := by
  cases i with
  | cvtDecLj | cvtDecLo24 | cvtEncLj | cvtEncLo24 | cvtTof | cvtFromf =>
    cases h
    exact State.onWord_keeps_faults fun _ => .refl _
  | cvtDeint | cvtInt =>
    cases h
    repeat' split
    all_goals exact .refl _
  | pipeRecv =>
    cases h
    split
    · split
      · exact State.recv_keeps_faults _ _ s
      · exact .refl _
    all_goals exact .refl _
  | pipeReq =>
    cases h
    exact State.onWord_keeps_faults fun len => State.req_keeps_faults len s
  | codecProbe =>
    cases h
    exact State.onEmpty_keeps_faults (.of_eq s.probe_faults)
  | codecEnjack j =>
    cases h
    exact State.onEmpty_keeps_faults (.of_eq (State.enableJack_faults j s))
  | codecDisjack j =>
    cases h
    exact State.onEmpty_keeps_faults (.of_eq (State.disableJack_faults j s))
  | codecInfo c j ch =>
    cases h
    exact State.onEmpty_keeps_faults (.refl _)
  | codecSet c j ch =>
    cases h
    exact State.onWord_keeps_faults fun v => .of_eq (State.setControl_faults c j ch v.toInt s)
  | midiByte b =>
    cases h
    exact State.onEmpty_keeps_faults (.of_eq (State.midiStep_faults s b))
  | midiPacket p0 p1 p2 =>
    cases h
    exact State.onEmpty_keeps_faults (.of_eq (State.dispatch_faults p0 p1 p2 s))
  | midiPoll =>
    cases h
    exact State.onEmpty_keeps_faults (.of_eq s.poll_faults)

/-- What a step that answers a next state has done: nothing, with no command pending; else the first command was taken, and
it was answered `ILLEGAL_COMMAND` for its word or run. -/
theorem step_next_cases {s t : State} (h : step s = .next t) :
    (s.pending = [] ∧ t = s) ∨
    ∃ c rest, s.pending = c :: rest ∧
      ((∃ e, decode c.cw = .error e ∧ t = (s.accept c.payload rest).illegal) ∨
        ∃ i, decode c.cw = .ok i ∧ exec i (s.accept c.payload rest) = .next t) := by
  unfold step at h
  split at h
  · unfold State.fetch at h
    cases hp : s.pending with
    | nil =>
      simp only [hp, Host.Outcome.next.injEq] at h
      exact .inl ⟨rfl, h.symm⟩
    | cons c rest =>
      refine .inr ⟨c, rest, rfl, ?_⟩
      cases hd : decode c.cw with
      | error e =>
        simp only [hp, hd, Host.Outcome.next.injEq] at h
        exact .inl ⟨e, rfl, h.symm⟩
      | ok i =>
        simp only [hp, hd] at h
        exact .inr ⟨i, rfl, h⟩
  · cases h

/-- No step removes a recorded kind (10_state.md R46). -/
theorem step_keeps_faults {s t : State} (h : step s = .next t) : s.faults.Subset t.faults := by
  obtain ⟨-, rfl⟩ | ⟨c, rest, -, ⟨e, -, rfl⟩ | ⟨i, -, hi⟩⟩ := step_next_cases h
  · exact .refl _
  · exact .refl _
  · exact exec_keeps_faults (s := s.accept c.payload rest) i hi

/-- A run has one end: where that end has a fault recorded, the run is not good (60_exceptions.md R310). -/
theorem not_goodRun_of_fault {c : Config} {cs : List Command} {t : State} {k : Fault} (hrun : runFrom c cs = .next t)
    (hk : faultHas k t.faults = true) : ¬ goodRun c cs := by
  rintro ⟨u, hu, hclean⟩
  cases hrun.symm.trans hu
  rw [State.faultHas_of_clean hclean k] at hk
  cases hk

/-- Settles O14: the record starts empty, every operation that touches it adds to it, and a faulted end is not clean. -/
theorem faultsAreSticky : Obligations.FaultsAreSticky :=
  ⟨fun _ k => by cases k <;> rfl, fun k j s => faultHas_faultAdd_eq k j s.faults,
    fun _ _ k h => step_keeps_faults h k, fun _ _ _ _ => not_goodRun_of_fault⟩

end Sys2Proof.Machine

/-! SUPPORT. A command word as four bytes (20_memory.md R76): which bits each byte is, that the bytes in order give the word
back, and the obligation O5. -/

namespace Sys2Proof

/-- Byte `k` is the slice of the word that starts at bit `8k`. -/
theorem wordBytes_getElem? (w : Word) {k : Nat} (hk : k < 4) :
    (wordBytes w)[k]? = some (w.extractLsb' (8 * k) 8) := by
  interval_cases k <;> rfl

/-- A slice of 8 bits as arithmetic on the word's number. -/
theorem extractLsb'_eq_ofNat_div (w : Word) (start : Nat) :
    w.extractLsb' start 8 = BitVec.ofNat 8 (w.toNat / 2 ^ start) := by
  rw [BitVec.extractLsb', Nat.shiftRight_eq_div_pow]

/-- Adjacent slices join from the top byte down, and the slice of all 32 bits is the word. -/
theorem bytesWord_extractLsb' (w : Word) :
    bytesWord (w.extractLsb' 0 8) (w.extractLsb' 8 8) (w.extractLsb' 16 8) (w.extractLsb' 24 8) = w := by
  rw [bytesWord, BitVec.extractLsb'_append_extractLsb'_eq_extractLsb' (start₂ := 24) (by rfl),
    BitVec.extractLsb'_append_extractLsb'_eq_extractLsb' (start₁ := 8) (by rfl),
    BitVec.extractLsb'_append_extractLsb'_eq_extractLsb' (start₁ := 0) (by rfl)]
  exact BitVec.extractLsb'_eq_self

@[simp] theorem decodeBytes_wordBytes (w : Word) : decodeBytes (wordBytes w) = decode w :=
  congrArg decode (bytesWord_extractLsb' w)

/-- Settles O5: each byte is a slice of the word, and the four slices in order join to the word. -/
theorem wordBytesAreLittleEndian : Obligations.WordBytesAreLittleEndian := fun w =>
  ⟨fun k hk => by rw [wordBytes_getElem? w hk, extractLsb'_eq_ofNat_div], decodeBytes_wordBytes w⟩

end Sys2Proof

/-! SUPPORT. The decoder on the command words that the spec writes out (30_encoding.md R102), and the obligation O4. -/

namespace Sys2Proof

/-- Settles O4: the words are closed, so the decoder evaluates on each of them to the instruction named. -/
theorem exampleWordsDecode : Obligations.ExampleWordsDecode :=
  ⟨rfl, rfl, rfl, rfl, rfl, rfl, rfl, rfl, rfl, rfl, rfl⟩

end Sys2Proof

/-! SUPPORT. The 24-bit conventions (40_converter.md R110 to R113, R120) as slices joined to bytes: a decoder sign-extends 24
bits of the word, an encoder puts a zero byte beside the low 24 bits of the sample. The obligations O18 to O22. -/

namespace Sys2Proof.Machine

/-! ## A word as a byte and 24 bits -/

theorem sext24_eq_append (v : BitVec 24) : sext24 v = (if v.msb then BitVec.allOnes 8 else 0#8) ++ v :=
  BitVec.signExtend_eq_append_of_le (by decide)

theorem zext24_eq_append (v : BitVec 24) : zext24 v = 0#8 ++ v := BitVec.setWidth_eq_append (by decide)

@[simp] theorem extractLsb'_sext24 (v : BitVec 24) : (sext24 v).extractLsb' 0 24 = v := by
  rw [sext24_eq_append, BitVec.extractLsb'_append_eq_right]

theorem toInt_sext24 (v : BitVec 24) : (sext24 v).toInt = v.toInt := BitVec.toInt_signExtend_of_le (by decide)

theorem toInt_sext24_range (v : BitVec 24) : -8388608 ≤ (sext24 v).toInt ∧ (sext24 v).toInt ≤ 8388607 := by
  have hlow := v.le_toInt
  have hhigh := v.toInt_lt
  rw [toInt_sext24]
  omega

/-- A sample of the 24-bit range is the sign extension of its low 24 bits. -/
theorem sext24_extractLsb'_of_range {s : Word} (hlow : -8388608 ≤ s.toInt) (hhigh : s.toInt ≤ 8388607) :
    sext24 (s.extractLsb' 0 24) = s := by
  apply BitVec.eq_of_toInt_eq
  rw [toInt_sext24, BitVec.toInt_eq_toNat_cond, BitVec.extractLsb'_toNat, Nat.shiftRight_zero]
  rw [BitVec.toInt_eq_toNat_cond] at hlow hhigh ⊢
  omega

/-- The lower 24 bits of a word under the mask of LO24. -/
theorem and_lowMask (w : Word) : w &&& 0x00FFFFFF = 0#8 ++ w.extractLsb' 0 24 := by
  conv_lhs => rw [← BitVec.extractLsb'_append_extractLsb' (w := 8) (len := 24) (x := w)]
  rw [show (0x00FFFFFF : Word) = 0#8 ++ BitVec.allOnes 24 from rfl, BitVec.and_append, BitVec.and_zero,
    BitVec.and_allOnes]

/-- The upper 24 bits of a word under the mask of LJ. -/
theorem and_highMask (w : Word) : w &&& 0xFFFFFF00 = w.extractLsb' 8 24 ++ 0#8 := by
  conv_lhs => rw [← BitVec.extractLsb'_append_extractLsb' (w := 24) (len := 8) (x := w)]
  rw [show (0xFFFFFF00 : Word) = BitVec.allOnes 24 ++ 0#8 from rfl, BitVec.and_append, BitVec.and_zero,
    BitVec.and_allOnes]

theorem or_topByte (w : Word) : w ||| 0xFF000000 = BitVec.allOnes 8 ++ w.extractLsb' 0 24 := by
  conv_lhs => rw [← BitVec.extractLsb'_append_extractLsb' (w := 8) (len := 24) (x := w)]
  rw [show (0xFF000000 : Word) = BitVec.allOnes 8 ++ 0#24 from rfl, BitVec.or_append, BitVec.or_allOnes,
    BitVec.or_zero]

/-! ## The conventions -/

theorem decLj_eq_sshiftRight (w : Word) : decLj w = w.sshiftRight 8 := by
  apply BitVec.eq_of_toInt_eq
  have hw : w.toInt = 2 ^ 8 * (w.extractLsb' 8 24).toInt + (w.extractLsb' 0 8).toNat := by
    conv_lhs => rw [← BitVec.extractLsb'_append_extractLsb' (w := 24) (len := 8) (x := w)]
    exact BitVec.toInt_append
  have hlow := (w.extractLsb' 0 8).isLt
  rw [decLj, toInt_sext24, BitVec.toInt_sshiftRight, Int.shiftRight_eq_div_pow]
  omega

theorem decLo24_eq_sext24 (w : Word) : decLo24 w = sext24 (w.extractLsb' 0 24) := by
  have hmsb : (w.extractLsb' 0 24).msb = w.getLsbD 23 := by simp [BitVec.msb_eq_getLsbD_last]
  rw [sext24_eq_append, hmsb, decLo24]
  split
  · exact or_topByte w
  · exact and_lowMask w

theorem encLo24_eq_append (x : Word) : encLo24 x = 0#8 ++ x.extractLsb' 0 24 := zext24_eq_append _

theorem encLj_eq_shiftLeft (x : Word) : encLj x = x <<< 8 := by
  rw [encLj, zext24_eq_append, BitVec.shiftLeft_eq_concat_of_lt (by decide), BitVec.shiftLeft_eq_concat_of_lt (by decide)]
  exact congrArg (· ++ 0#8) BitVec.extractLsb'_append_eq_right

theorem encLj_eq_append (x : Word) : encLj x = x.extractLsb' 0 24 ++ 0#8 := by
  rw [encLj_eq_shiftLeft, BitVec.shiftLeft_eq_concat_of_lt (by decide)]
  rfl

theorem toNat_encLj (x : Word) : (encLj x).toNat = x.toNat % 2 ^ 24 * 256 := by
  rw [encLj_eq_shiftLeft, BitVec.toNat_shiftLeft, Nat.shiftLeft_eq]
  omega

theorem toNat_encLo24 (x : Word) : (encLo24 x).toNat = x.toNat % 2 ^ 24 := by
  rw [encLo24_eq_append, BitVec.toNat_append]
  simp

theorem decLj_encLj {s : Word} (hlow : -8388608 ≤ s.toInt) (hhigh : s.toInt ≤ 8388607) : decLj (encLj s) = s := by
  rw [encLj_eq_append, decLj, BitVec.extractLsb'_append_eq_left, sext24_extractLsb'_of_range hlow hhigh]

theorem decLo24_encLo24 {s : Word} (hlow : -8388608 ≤ s.toInt) (hhigh : s.toInt ≤ 8388607) :
    decLo24 (encLo24 s) = s := by
  rw [encLo24_eq_append, decLo24_eq_sext24, BitVec.extractLsb'_append_eq_right, sext24_extractLsb'_of_range hlow hhigh]

theorem encLj_decLj (w : Word) : encLj (decLj w) = w &&& 0xFFFFFF00 := by
  rw [encLj_eq_append, decLj, extractLsb'_sext24, and_highMask]

theorem encLo24_decLo24 (w : Word) : encLo24 (decLo24 w) = w &&& 0x00FFFFFF := by
  rw [encLo24_eq_append, decLo24_eq_sext24, extractLsb'_sext24, and_lowMask]

/-! ## The commands over one word -/

/-- With a word operand the body of the command runs on it. -/
theorem State.onWord_of_word {s : State} {w : Word} (h : s.operand = .word w) (f : Word → State) : s.onWord f = f w := by
  rw [State.onWord, h]

/-- Settles O18: the slice of the upper 24 bits, sign-extended, is the quotient by 256. -/
theorem decLjShiftsRight : Obligations.DecLjShiftsRight := by
  refine ⟨rfl, fun s w hw => ?_⟩
  rw [← decLj_eq_sshiftRight]
  exact ⟨congrArg Host.Outcome.next (State.onWord_of_word hw _), toInt_sext24_range _⟩

/-- Settles O19: both branches of the decoder put the sign byte before the low 24 bits. -/
theorem decLo24SignExtends : Obligations.DecLo24SignExtends := by
  refine ⟨rfl, fun s w hw => ?_⟩
  have hsext : (w.setWidth 24).signExtend 32 = decLo24 w := (decLo24_eq_sext24 w).symm
  rw [hsext]
  exact congrArg Host.Outcome.next (State.onWord_of_word hw _)

/-- Settles O20: the sample shifted left loses its top byte, so its number is that of the low 24 bits times 256. -/
theorem encLjKeepsLow24 : Obligations.EncLjKeepsLow24 := by
  refine ⟨rfl, fun s x hx => ?_⟩
  rw [← toNat_encLj, BitVec.ofNat_toNat, BitVec.setWidth_eq]
  exact congrArg Host.Outcome.next (State.onWord_of_word hx _)

/-- Settles O21: a zero byte before the low 24 bits adds nothing to their number. -/
theorem encLo24KeepsLow24 : Obligations.EncLo24KeepsLow24 := by
  refine ⟨rfl, fun s x hx => ?_⟩
  rw [← toNat_encLo24, BitVec.ofNat_toNat, BitVec.setWidth_eq]
  exact congrArg Host.Outcome.next (State.onWord_of_word hx _)

/-- Settles O22: each decoder reads the slice that its encoder wrote, and the other byte is the zero byte of the mask. -/
theorem conventionsRoundTrip : Obligations.ConventionsRoundTrip :=
  ⟨fun _ hlow hhigh => ⟨decLj_encLj hlow hhigh, decLo24_encLo24 hlow hhigh⟩,
    fun w => ⟨encLj_decLj w, encLo24_decLo24 w⟩⟩

end Sys2Proof.Machine

/-! SUPPORT. CVT.TOF (40_converter.md R114): what the fields of a float say of its value, what rounding to 24 significant bits
does, and the value of a converted sample. The obligation O23. -/

namespace Sys2Proof.Machine

/-! ## The fields of a float as arithmetic on its number -/

theorem f32Sign_eq (x : F32) : f32Sign x = decide (2 ^ 31 ≤ x.toNat) := by
  rw [f32Sign, ← BitVec.msb_eq_getLsbD_last, BitVec.msb_eq_decide]

theorem f32Exp_eq (x : F32) : f32Exp x = x.toNat / 2 ^ 23 % 2 ^ 8 := by
  rw [f32Exp, BitVec.extractLsb'_toNat, Nat.shiftRight_eq_div_pow]

theorem f32Frac_eq (x : F32) : f32Frac x = x.toNat % 2 ^ 23 := by
  rw [f32Frac, BitVec.extractLsb'_toNat, Nat.shiftRight_zero]

/-- A normal float written as sign, exponent and fraction. A fraction of `2^23` is the carry into the exponent: it doubles the
weight of the significand `2^23`, which is what the sum `2^23 + f` says too. -/
theorem f32Mag_of_toNat {x : F32} {sign e f : Nat} (hx : x.toNat = sign * 2 ^ 31 + e * 2 ^ 23 + f) (hpos : 1 ≤ e)
    (hmax : e < 254) (hf : f ≤ 2 ^ 23) : f32Mag x = (2 ^ 23 + f) * 2 ^ (e - 1) := by
  obtain hlt | rfl := Nat.lt_or_eq_of_le hf
  · have hexp : f32Exp x = e := by rw [f32Exp_eq]; omega
    have hfrac : f32Frac x = f := by rw [f32Frac_eq]; omega
    rw [f32Mag, hexp, hfrac, if_neg (by omega)]
    rfl
  · have hexp : f32Exp x = e + 1 := by rw [f32Exp_eq]; omega
    have hfrac : f32Frac x = 0 := by rw [f32Frac_eq]; omega
    have hpow : 2 ^ e = 2 * 2 ^ (e - 1) := by rw [← Nat.pow_succ', Nat.succ_eq_add_one, Nat.sub_add_cancel hpos]
    rw [f32Mag, hexp, hfrac, if_neg (by omega), Nat.add_sub_cancel, hpow]
    ring

theorem f32IsNan_of_toNat {x : F32} {sign e f : Nat} (hx : x.toNat = sign * 2 ^ 31 + e * 2 ^ 23 + f)
    (hmax : e < 254) (hf : f ≤ 2 ^ 23) : f32IsNan x = false := by
  have hexp : f32Exp x ≠ 255 := by rw [f32Exp_eq]; omega
  simp [f32IsNan, hexp]

theorem f32Sign_of_toNat {x : F32} {neg : Bool} {e f : Nat} (hx : x.toNat = neg.toNat * 2 ^ 31 + e * 2 ^ 23 + f)
    (hmax : e < 254) (hf : f ≤ 2 ^ 23) : f32Sign x = neg := by
  rw [f32Sign_eq, hx]
  cases neg
  · exact decide_eq_false (by simp only [Bool.toNat_false]; omega)
  · exact decide_eq_true (by simp only [Bool.toNat_true]; omega)

/-- Scaling by `2^-23` takes 23 from the exponent. -/
theorem toNat_f32DivFs {x : F32} (hx : 24 * 2 ^ 23 ≤ x.toNat % 2 ^ 31) :
    (f32DivFs x).toNat = x.toNat - 23 * 2 ^ 23 := by
  have hexp : ¬ f32Exp x ≤ 23 := by rw [f32Exp_eq]; omega
  have hle : 23#32 <<< 23 ≤ x := by
    rw [BitVec.le_def]
    exact Nat.le_trans (show 23 * 2 ^ 23 ≤ x.toNat by omega) (Nat.le_refl _)
  rw [f32DivFs, if_neg hexp, BitVec.toNat_sub_of_le hle]
  rfl

/-! ## Rounding to 24 significant bits -/

/-- The quotient, or the next number. -/
theorem shiftRne_cases (m k : Nat) :
    (shiftRne m k = m / 2 ^ k ∧ (2 * (m % 2 ^ k) < 2 ^ k ∨ 2 * (m % 2 ^ k) = 2 ^ k ∧ m / 2 ^ k % 2 = 0)) ∨
    (shiftRne m k = m / 2 ^ k + 1 ∧ (2 ^ k < 2 * (m % 2 ^ k) ∨ 2 * (m % 2 ^ k) = 2 ^ k ∧ m / 2 ^ k % 2 = 1)) := by
  simp only [shiftRne, Nat.shiftRight_eq_div_pow, Bool.or_eq_true, Bool.and_eq_true, beq_iff_eq, decide_eq_true_eq]
  split <;> omega

/-- Nearest, ties to even. -/
theorem shiftRne_nearest (m k : Nat) :
    2 * ((m : Int) - shiftRne m k * 2 ^ k).natAbs ≤ 2 ^ k ∧
    (2 * ((m : Int) - shiftRne m k * 2 ^ k).natAbs = 2 ^ k → shiftRne m k % 2 = 0) := by
  have hm := Nat.div_add_mod' m (2 ^ k)
  have hr := Nat.mod_lt m (Nat.two_pow_pos k)
  have hcast : ((shiftRne m k * 2 ^ k : Nat) : Int) = shiftRne m k * 2 ^ k := by push_cast; rfl
  rw [← hcast]
  obtain ⟨hq, h⟩ | ⟨hq, h⟩ := shiftRne_cases m k
  · rw [hq]
    omega
  · rw [hq, Nat.add_mul, Nat.one_mul]
    omega

theorem significand_of_log2_le {m : Nat} (h : m.log2 ≤ 23) : significand m = m * 2 ^ (23 - m.log2) := by
  rw [significand, if_pos h, Nat.shiftLeft_eq]

theorem significand_of_lt_log2 {m : Nat} (h : 23 < m.log2) : significand m = shiftRne m (m.log2 - 23) := by
  rw [significand, if_neg (by omega)]

/-- A significand has 24 bits, or is `2^24`. -/
theorem significand_range {m : Nat} (hm : m ≠ 0) : 2 ^ 23 ≤ significand m ∧ significand m ≤ 2 ^ 24 := by
  have hlow := Nat.log2_self_le hm
  have hhigh := @Nat.lt_log2_self m
  by_cases h : m.log2 ≤ 23
  · rw [significand_of_log2_le h]
    constructor
    · calc 2 ^ 23 = 2 ^ m.log2 * 2 ^ (23 - m.log2) := by rw [← Nat.pow_add, Nat.add_sub_cancel' h]
        _ ≤ m * 2 ^ (23 - m.log2) := Nat.mul_le_mul_right _ hlow
    · calc m * 2 ^ (23 - m.log2) ≤ 2 ^ (m.log2 + 1) * 2 ^ (23 - m.log2) := Nat.mul_le_mul_right _ hhigh.le
        _ = 2 ^ 24 := by rw [← Nat.pow_add]; congr 1; omega
  · rw [significand_of_lt_log2 (by omega)]
    have hq : 2 ^ 23 ≤ m / 2 ^ (m.log2 - 23) := by
      rw [Nat.le_div_iff_mul_le (Nat.two_pow_pos _), ← Nat.pow_add, Nat.add_sub_cancel' (by omega)]
      exact hlow
    have hq' : m / 2 ^ (m.log2 - 23) < 2 ^ 24 := by
      rw [Nat.div_lt_iff_lt_mul (Nat.two_pow_pos _), ← Nat.pow_add, show 24 + (m.log2 - 23) = m.log2 + 1 by omega]
      exact hhigh
    obtain ⟨h, -⟩ | ⟨h, -⟩ := shiftRne_cases m (m.log2 - 23) <;> omega

/-- Up to `2^24` the significand holds every bit. -/
theorem significand_exact {m : Nat} (hm : m ≤ 2 ^ 24) : significand m * 2 ^ (m.log2 + 103) = m * 2 ^ 126 := by
  obtain hlt | rfl := Nat.lt_or_eq_of_le hm
  · have hlog : m.log2 ≤ 23 := by
      by_cases h0 : m = 0
      · subst h0; decide
      · exact Nat.le_of_lt_succ ((Nat.log2_lt h0).2 hlt)
    rw [significand_of_log2_le hlog, Nat.mul_assoc, ← Nat.pow_add]
    congr 2
    omega
  · decide

/-! ## The float of a sample -/

@[simp] theorem toFloat_zero : toFloat 0 = 0 := by decide

theorem log2_natAbs_toInt_lt {x : Word} (hx : x.toInt ≠ 0) : x.toInt.natAbs.log2 < 32 := by
  have hlow := x.le_toInt
  have hhigh := @BitVec.toInt_lt 32 x
  rw [Nat.log2_lt (by omega)]
  omega

/-- The number of a sample's float, before a carry out of the significand. -/
theorem toNat_toFloat {x : Word} (hx : x.toInt ≠ 0) :
    (toFloat x).toNat = x.msb.toNat * 2 ^ 31 + (x.toInt.natAbs.log2 + 104) * 2 ^ 23
      + (significand x.toInt.natAbs - 2 ^ 23) := by
  have hlog := log2_natAbs_toInt_lt hx
  have hbit := x.msb.toNat_le
  obtain ⟨hsig, hsig'⟩ := significand_range (m := x.toInt.natAbs) (by omega)
  have hsign : (if x.toInt < 0 then 2147483648 else 0) = x.msb.toNat * 2 ^ 31 := by
    rw [BitVec.msb_eq_toInt]
    split <;> simp [*]
  have hnat : (f32OfInt x.toInt).toNat = x.msb.toNat * 2 ^ 31 + (x.toInt.natAbs.log2 + 127) * 2 ^ 23
      + (significand x.toInt.natAbs - 2 ^ 23) := by
    rw [f32OfInt, if_neg hx, hsign, BitVec.toNat_ofNat]
    omega
  rw [toFloat, toNat_f32DivFs (by rw [hnat]; omega), hnat]
  omega

theorem f32IsNan_toFloat (x : Word) : f32IsNan (toFloat x) = false := by
  by_cases hx : x.toInt = 0
  · rw [show x = 0 from BitVec.eq_of_toInt_eq hx]
    decide
  · have hlog := log2_natAbs_toInt_lt hx
    obtain ⟨-, hsig⟩ := significand_range (m := x.toInt.natAbs) (by omega)
    exact f32IsNan_of_toNat (toNat_toFloat hx) (by omega) (by omega)

/-- The value of a sample's float: the significand at its weight, with the sample's sign. -/
theorem f32Units_toFloat (x : Word) :
    f32Units (toFloat x)
      = x.toInt.sign * (significand x.toInt.natAbs * 2 ^ (x.toInt.natAbs.log2 + 103) : Nat) := by
  by_cases hx : x.toInt = 0
  · rw [show x = 0 from BitVec.eq_of_toInt_eq hx]
    decide
  · have hlog := log2_natAbs_toInt_lt hx
    obtain ⟨hsig, hsig'⟩ := significand_range (m := x.toInt.natAbs) (by omega)
    have hsign := f32Sign_of_toNat (toNat_toFloat hx) (by omega) (by omega)
    have hmag : f32Mag (toFloat x) = significand x.toInt.natAbs * 2 ^ (x.toInt.natAbs.log2 + 103) := by
      rw [f32Mag_of_toNat (toNat_toFloat hx) (by omega) (by omega) (by omega), Nat.add_sub_cancel' hsig]
      rfl
    rw [f32Units, hsign, hmag, BitVec.msb_eq_toInt]
    obtain hneg | hpos := Int.lt_or_gt_of_ne hx
    · rw [if_pos (decide_eq_true hneg), Int.sign_eq_neg_one_of_neg hneg, Int.neg_one_mul]
    · rw [if_neg (by simp; omega), Int.sign_eq_one_of_pos hpos, Int.one_mul]

/-- Up to `2^24` the conversion is exact (R121, R122). -/
theorem f32Units_toFloat_of_natAbs_le {x : Word} (hx : x.toInt.natAbs ≤ 2 ^ 24) :
    f32Units (toFloat x) = x.toInt * 2 ^ 126 := by
  rw [f32Units_toFloat, significand_exact hx, Nat.cast_mul, ← mul_assoc, Int.sign_mul_natAbs]
  push_cast; rfl

/-- From `2^24` on it rounds the sample to 24 significant bits, to nearest and ties to even: `k` bits are lost. -/
theorem f32Units_toFloat_nearest {x : Word} (hx : 2 ^ 24 ≤ x.toInt.natAbs) :
    ∃ k q : Nat, 2 ^ (k + 23) ≤ x.toInt.natAbs ∧ x.toInt.natAbs < 2 ^ (k + 24) ∧
      f32Units (toFloat x) * 2 ^ 23 = x.toInt.sign * (q * 2 ^ k) * 2 ^ 149 ∧
      2 * ((x.toInt.natAbs : Int) - q * 2 ^ k).natAbs ≤ 2 ^ k ∧
      (2 * ((x.toInt.natAbs : Int) - q * 2 ^ k).natAbs = 2 ^ k → q % 2 = 0) := by
  have hne : x.toInt.natAbs ≠ 0 := by omega
  have hlog : 24 ≤ x.toInt.natAbs.log2 := (Nat.le_log2 hne).2 hx
  obtain ⟨k, hk⟩ := Nat.exists_eq_add_of_le' (show 23 ≤ x.toInt.natAbs.log2 by omega)
  refine ⟨k, shiftRne x.toInt.natAbs k, ?_, ?_, ?_, shiftRne_nearest _ _⟩
  · rw [← hk]
    exact Nat.log2_self_le hne
  · rw [show k + 24 = x.toInt.natAbs.log2 + 1 by omega]
    exact Nat.lt_log2_self
  · rw [f32Units_toFloat, significand_of_lt_log2 (by omega), hk, Nat.add_sub_cancel]
    push_cast
    ring

/-- Settles O23: `f32Units_toFloat_of_natAbs_le` below `2^24`, `f32Units_toFloat_nearest` above. -/
theorem tofScalesTheNearestFloat : Obligations.TofScalesTheNearestFloat := by
  refine ⟨rfl, fun s x hx => ⟨toFloat x, congrArg Host.Outcome.next (State.onWord_of_word hx _), f32IsNan_toFloat x,
    fun h => h ▸ toFloat_zero, fun h => ?_, f32Units_toFloat_nearest⟩⟩
  rw [f32Units_toFloat_of_natAbs_le h]
  ring

end Sys2Proof.Machine

/-! SUPPORT. CVT.FROMF (40_converter.md R115, R121 to R124): the clamp and the truncation as functions of the float's value
alone, their bounds, and the oddness between them. The obligations O24 to O27. -/

namespace Sys2Proof.Machine

/-! ## The clamp -/

/-- `CLAMP_HI` lies half a sample above 8388599. -/
theorem f32Units_clampHi : f32Units Config.clampHi = 16777199 * 2 ^ 125 := by decide

theorem f32Units_clampLo : f32Units Config.clampLo = -(2 ^ 149) := by decide

theorem f32Lt_of_not_nan {x y : F32} (hx : f32IsNan x = false) (hy : f32IsNan y = false) :
    f32Lt x y = decide (f32Units x < f32Units y) := by simp [f32Lt, hx, hy]

/-- The clamp of R115 on the values. -/
theorem f32Units_clampFloat {x : F32} (hx : f32IsNan x = false) :
    f32Units (clampFloat x) = max (min (f32Units x) (f32Units Config.clampHi)) (f32Units Config.clampLo) := by
  have hhi : f32IsNan Config.clampHi = false := by decide
  have hlo : f32IsNan Config.clampLo = false := by decide
  have hbounds : f32Units Config.clampLo ≤ f32Units Config.clampHi := by decide
  simp only [clampFloat, f32Lt_of_not_nan hhi hx, decide_eq_true_eq]
  split
  · rw [f32Lt_of_not_nan hhi hlo, if_neg (by simp [hbounds])]
    omega
  · simp only [f32Lt_of_not_nan hx hlo, decide_eq_true_eq]
    split <;> omega

/-! ## The truncation -/

theorem scaleTrunc_eq (x : F32) : scaleTrunc x = (f32Units x).tdiv (2 ^ 126) := by
  rw [scaleTrunc, show (2 ^ 149 : Int) = 2 ^ 126 * Config.fs by decide]
  exact Int.mul_tdiv_mul_of_pos_left _ _ (by decide)

theorem tdiv_clampHi : (f32Units Config.clampHi).tdiv (2 ^ 126) = 8388599 := by decide

theorem tdiv_clampLo : (f32Units Config.clampLo).tdiv (2 ^ 126) = -8388608 := by decide

/-- What is left of a number after the clamp and the truncation (R122). -/
theorem scaleTrunc_clampFloat_range {x : F32} (hx : f32IsNan x = false) :
    -8388608 ≤ scaleTrunc (clampFloat x) ∧ scaleTrunc (clampFloat x) ≤ 8388599 := by
  have hbounds : f32Units Config.clampLo ≤ f32Units Config.clampHi := by decide
  rw [scaleTrunc_eq, f32Units_clampFloat hx]
  constructor
  · calc -8388608 = (f32Units Config.clampLo).tdiv (2 ^ 126) := tdiv_clampLo.symm
      _ ≤ _ := Int.tdiv_le_tdiv (by decide) (le_max_right _ _)
  · calc _ ≤ (f32Units Config.clampHi).tdiv (2 ^ 126) :=
          Int.tdiv_le_tdiv (by decide) (max_le (min_le_right _ _) hbounds)
      _ = 8388599 := tdiv_clampHi

/-- The second clamp of R115 keeps a value of the 24-bit range. -/
theorem clampI24_of_range {v : Int} (hlow : -8388608 ≤ v) (hhigh : v ≤ 8388607) : clampI24 v = v := by
  rw [clampI24, if_neg (by omega), if_neg (by omega)]

/-! ## The sample of a number -/

theorem fromFloat_of_not_nan {x : F32} (hx : f32IsNan x = false) (k : Nat) : fromFloat x k = fromFloatNum x := by
  simp [fromFloat, hx]

theorem fromFloat_of_nan {x : F32} (hx : f32IsNan x = true) (k : Nat) : fromFloat x k = sext24 (Config.freeNan k) := by
  simp [fromFloat, hx]

/-- The sample of a number is the truncation of its clamped value. -/
theorem toInt_fromFloat {x : F32} (hx : f32IsNan x = false) (k : Nat) :
    (fromFloat x k).toInt = (max (min (f32Units x) (f32Units Config.clampHi)) (f32Units Config.clampLo)).tdiv (2 ^ 126) := by
  obtain ⟨hlow, hhigh⟩ := scaleTrunc_clampFloat_range hx
  rw [fromFloat_of_not_nan hx, fromFloatNum, clampI24_of_range hlow (by omega),
    BitVec.toInt_ofInt_eq_self (by decide) (by omega) (by omega), scaleTrunc_eq, f32Units_clampFloat hx]

theorem toInt_fromFloat_range {x : F32} (hx : f32IsNan x = false) (k : Nat) :
    -8388608 ≤ (fromFloat x k).toInt ∧ (fromFloat x k).toInt ≤ 8388599 := by
  have h := scaleTrunc_clampFloat_range hx
  rwa [scaleTrunc_eq, f32Units_clampFloat hx, ← toInt_fromFloat hx k] at h

theorem toInt_fromFloat_of_ge {x : F32} (hx : f32IsNan x = false) (h : f32Units Config.clampHi ≤ f32Units x) (k : Nat) :
    (fromFloat x k).toInt = 8388599 := by
  have hbounds : f32Units Config.clampLo ≤ f32Units Config.clampHi := by decide
  rw [toInt_fromFloat hx, min_eq_right h, max_eq_left hbounds, tdiv_clampHi]

theorem toInt_fromFloat_of_le {x : F32} (hx : f32IsNan x = false) (h : f32Units x ≤ f32Units Config.clampLo) (k : Nat) :
    (fromFloat x k).toInt = -8388608 := by
  rw [toInt_fromFloat hx, max_eq_right ((min_le_left _ _).trans h), tdiv_clampLo]

theorem toInt_fromFloat_of_between {x : F32} (hx : f32IsNan x = false) (hlow : f32Units Config.clampLo ≤ f32Units x)
    (hhigh : f32Units x ≤ f32Units Config.clampHi) (k : Nat) :
    (fromFloat x k).toInt = (f32Units x).tdiv (2 ^ 126) := by
  rw [toInt_fromFloat hx, min_eq_left hhigh, max_eq_left hlow]

theorem toInt_fromFloat_i24 (x : F32) (k : Nat) :
    -8388608 ≤ (fromFloat x k).toInt ∧ (fromFloat x k).toInt ≤ 8388607 := by
  cases hx : f32IsNan x with
  | true =>
    rw [fromFloat_of_nan hx]
    exact toInt_sext24_range _
  | false =>
    have := toInt_fromFloat_range hx k
    omega

/-- Settles O24: the result is the draw of a NaN, else the truncation of the clamped value. -/
theorem fromfClampsAndTruncates : Obligations.FromfClampsAndTruncates := by
  refine ⟨rfl, fun s x hx => ⟨fromFloat x s.nanDraws, congrArg Host.Outcome.next (State.onWord_of_word hx _),
    (toInt_fromFloat_i24 x _).1, (toInt_fromFloat_i24 x _).2, fun hnan => fromFloat_of_nan hnan _,
    fun hnum h => toInt_fromFloat_of_ge hnum h _, fun hnum h => toInt_fromFloat_of_le hnum h _,
    fun hnum hlow hhigh => ?_⟩⟩
  exact (toInt_fromFloat_of_between hnum hlow hhigh _).trans (scaleTrunc_eq x).symm

/-! ## The scale law and the ranges -/

/-- Settles O25: the float of a sample is exact, and `CLAMP_HI` lies between 8388599 and 8388600 at its scale. -/
theorem scaleLaw : Obligations.ScaleLaw := by
  intro s k hlow hhigh
  have hunits := f32Units_toFloat_of_natAbs_le (x := s) (by omega)
  have hnum := f32IsNan_toFloat s
  constructor
  · intro hle
    apply BitVec.eq_of_toInt_eq
    rw [toInt_fromFloat_of_between hnum (by rw [hunits, f32Units_clampLo]; omega)
      (by rw [hunits, f32Units_clampHi]; omega), hunits, Int.mul_tdiv_cancel _ (by decide)]
  · intro hge
    exact toInt_fromFloat_of_ge hnum (by rw [hunits, f32Units_clampHi]; omega) k

/-- Settles O26: `f32Units_toFloat_of_natAbs_le` for CVT.TOF, `scaleTrunc_clampFloat_range` for CVT.FROMF. -/
theorem converterRanges : Obligations.ConverterRanges := by
  refine ⟨fun s hlow hhigh => ?_, fun x k hx => ?_⟩
  · rw [f32Units_toFloat_of_natAbs_le (by omega)]
    omega
  · obtain ⟨hlow, hhigh⟩ := scaleTrunc_clampFloat_range hx
    exact ⟨(toInt_fromFloat_range hx k).1, (toInt_fromFloat_range hx k).2, clampI24_of_range hlow (by omega)⟩

/-! ## Saturation and oddness -/

/-- The sign bit does not reach the exponent and the fraction. -/
theorem f32Exp_xor_sign (x : F32) : f32Exp (x ^^^ 0x80000000) = f32Exp x := by
  rw [f32Exp, BitVec.extractLsb'_xor, f32Exp]
  exact congrArg BitVec.toNat (BitVec.xor_zero)

theorem f32Frac_xor_sign (x : F32) : f32Frac (x ^^^ 0x80000000) = f32Frac x := by
  rw [f32Frac, BitVec.extractLsb'_xor, f32Frac]
  exact congrArg BitVec.toNat (BitVec.xor_zero)

theorem f32IsNan_xor_sign (x : F32) : f32IsNan (x ^^^ 0x80000000) = f32IsNan x := by
  rw [f32IsNan, f32Exp_xor_sign, f32Frac_xor_sign, f32IsNan]

theorem f32Mag_xor_sign (x : F32) : f32Mag (x ^^^ 0x80000000) = f32Mag x := by
  rw [f32Mag, f32Exp_xor_sign, f32Frac_xor_sign, f32Mag]

theorem f32Sign_xor_sign (x : F32) : f32Sign (x ^^^ 0x80000000) = !f32Sign x := by
  rw [f32Sign, BitVec.getLsbD_xor]
  exact Bool.xor_true _

theorem f32Units_xor_sign (x : F32) : f32Units (x ^^^ 0x80000000) = -f32Units x := by
  rw [f32Units, f32Units, f32Sign_xor_sign, f32Mag_xor_sign]
  cases f32Sign x <;> simp

/-- A magnitude up to that of `CLAMP_HI` puts the value between the clamp bounds. -/
theorem f32Units_between_of_mag_le {x : F32} (h : f32Mag x ≤ f32Mag Config.clampHi) :
    f32Units Config.clampLo ≤ f32Units x ∧ f32Units x ≤ f32Units Config.clampHi := by
  have hhi : f32Mag Config.clampHi = 16777199 * 2 ^ 125 := by decide
  rw [hhi] at h
  rw [f32Units_clampLo, f32Units_clampHi, f32Units]
  split <;> omega

theorem toInt_fromFloat_neg {x : F32} (hx : f32IsNan x = false) (h : f32Mag x ≤ f32Mag Config.clampHi) (k : Nat) :
    (fromFloat (x ^^^ 0x80000000) k).toInt = -(fromFloat x k).toInt := by
  obtain ⟨hlow, hhigh⟩ := f32Units_between_of_mag_le h
  obtain ⟨hlow', hhigh'⟩ := f32Units_between_of_mag_le (x := x ^^^ 0x80000000) (by rwa [f32Mag_xor_sign])
  rw [toInt_fromFloat_of_between hx hlow hhigh, toInt_fromFloat_of_between (by rwa [f32IsNan_xor_sign]) hlow' hhigh',
    f32Units_xor_sign, Int.neg_tdiv]

/-- Settles O27: at or beyond a bound every number converts as the bound does; between the bounds the truncation is odd. -/
theorem fromfSaturatesAndIsOdd : Obligations.FromfSaturatesAndIsOdd := by
  have hhi : f32IsNan Config.clampHi = false := by decide
  have hlo : f32IsNan Config.clampLo = false := by decide
  refine ⟨fun x k hx => ⟨fun h => BitVec.eq_of_toInt_eq ?_, fun h => BitVec.eq_of_toInt_eq ?_,
    fun h => toInt_fromFloat_neg hx h k⟩, fun k => ⟨?_, ?_, ?_, ?_, ?_⟩⟩
  · exact (toInt_fromFloat_of_ge hx h k).trans (toInt_fromFloat_of_ge hhi le_rfl k).symm
  · exact (toInt_fromFloat_of_le hx h k).trans (toInt_fromFloat_of_le hlo le_rfl k).symm
  · exact toInt_fromFloat_of_ge (by decide) (by decide) k
  · exact toInt_fromFloat_of_ge hhi le_rfl k
  · exact toInt_fromFloat_of_le (by decide) (by decide) k
  · exact toInt_fromFloat_of_le hlo le_rfl k
  · exact toInt_fromFloat_of_ge (by decide) (by decide) k

end Sys2Proof.Machine

/-! SUPPORT. The block conversions (40_converter.md R116 to R118): CVT.DEINT and CVT.INT on a payload of their shape, and what
one channel and one word hold. The obligations O28 and O29. -/

namespace Sys2Proof.Machine

/-! ## One element -/

theorem wireDecode_eq_sshiftRight (w : Word) : wireDecode w = w.sshiftRight 8 := decLj_eq_sshiftRight w

theorem wireEncode_eq_shiftLeft (x : Word) : wireEncode x = x <<< 8 := encLj_eq_shiftLeft x

/-- One channel of a block of `N` words, through the shift of CVT.DEC.LJ. -/
theorem getElem?_deinterleave_frames {c : Config} {ws : List Word} {p i : Nat} (hlen : ws.length = c.n) (hp : p < 2)
    (hi : i < c.frames) :
    (deinterleave c.frames p ws)[i]? = (ws[2 * i + p]?).map fun w => toFloat (w.sshiftRight 8) := by
  have hblock : 2 * c.frames ≤ ws.length := by rw [hlen, Config.frames]; omega
  simp only [getElem?_deinterleave hblock hp hi, wireDecode_eq_sshiftRight]

/-- The low byte of an output word is zero. -/
theorem toNat_wireEncode_mod (x : Word) : (wireEncode x).toNat % 256 = 0 :=
  (congrArg (· % 256) (toNat_encLj x)).trans (Nat.mul_mod_left _ _)

theorem toNat_mod_of_mem_interleaveWords {l r : List F32} {k : Nat} {w : Word} (h : w ∈ interleaveWords l r k) :
    w.toNat % 256 = 0 := by
  obtain ⟨x, -, rfl⟩ := List.mem_map.1 h
  exact toNat_wireEncode_mod x

/-! ## The commands -/

theorem exec_cvtDeint_of_length {s : State} {ws : List Word} (hs : s.operand = .block ws) (h : ws.length = s.cfg.n) :
    exec .cvtDeint s
      = .next (s.respond .ok (.channels (deinterleave s.cfg.frames 0 ws) (deinterleave s.cfg.frames 1 ws))) := by
  simp only [exec, execCvtDeint, hs, if_pos h]

theorem exec_cvtDeint_of_length_ne {s : State} {ws : List Word} (hs : s.operand = .block ws) (h : ws.length ≠ s.cfg.n) :
    exec .cvtDeint s = .next s.illegal := by
  simp only [exec, execCvtDeint, hs, if_neg h]

theorem exec_cvtInt_of_length {s : State} {l r : List F32} (hs : s.operand = .channels l r)
    (hl : l.length = s.cfg.frames) (hr : r.length = s.cfg.frames) :
    exec .cvtInt s
      = .next ((s.setDraws (drawsAfter (interleave l r) s.nanDraws)).respond .ok
          (.block (interleaveWords l r s.nanDraws))) := by
  simp only [exec, execCvtInt, hs, if_pos (And.intro hl hr)]

theorem exec_cvtInt_of_length_ne {s : State} {l r : List F32} (hs : s.operand = .channels l r)
    (h : l.length ≠ s.cfg.frames ∨ r.length ≠ s.cfg.frames) : exec .cvtInt s = .next s.illegal := by
  simp only [exec, execCvtInt, hs, if_neg (not_and_or.2 h)]

/-- Settles O28: `getElem?_deinterleave_frames` at the even and the odd words. -/
theorem deintSplitsTheBlock : Obligations.DeintSplitsTheBlock := by
  refine ⟨rfl, fun s ws hs hlen => exec_cvtDeint_of_length_ne hs hlen, fun s ws _ hs hlen =>
    ⟨_, _, exec_cvtDeint_of_length hs hlen, length_deinterleave _ _ _, length_deinterleave _ _ _, ?_, ?_⟩⟩
  · exact fun i hi => getElem?_deinterleave_frames hlen (p := 0) (by decide) hi
  · exact fun i hi => getElem?_deinterleave_frames hlen (p := 1) (by decide) hi

/-- Settles O29: `getElem?_interleaveWords` for the words, `drawsAfter_eq` for the draw counter. -/
theorem intInterleavesTheChannels : Obligations.IntInterleavesTheChannels := by
  refine ⟨rfl, fun s l r hs hlen => exec_cvtInt_of_length_ne hs hlen, fun s l r heven hs hl hr =>
    ⟨interleaveWords l r s.nanDraws, ?_, ?_, fun w => toNat_mod_of_mem_interleaveWords, fun i x hx => ?_,
      fun i x hx => ?_⟩⟩
  all_goals have hlr : l.length = r.length := hl.trans hr.symm
  · rw [exec_cvtInt_of_length hs hl hr, drawsAfter_eq, countP_interleave hlr]
    rfl
  · rw [length_interleaveWords hlr, hl]
    omega
  · rw [(getElem?_interleaveWords s.nanDraws i hlr).1 x hx, wireEncode_eq_shiftLeft]
  · rw [(getElem?_interleaveWords s.nanDraws i hlr).2 x hx, wireEncode_eq_shiftLeft]

end Sys2Proof.Machine

/-! SUPPORT. The DSP's setup (70_reset_and_hazards.md R345, 41_arbiter.md R163): no command and no step changes it. The
obligation O60. -/

namespace Sys2Proof.Machine

/-- A property of `ILLEGAL_COMMAND` and of the body on every word is one of a command over one word. -/
theorem State.onWord_elim {P : State → Prop} {s : State} {f : Word → State} (hIllegal : P s.illegal) (h : ∀ w, P (f w)) :
    P (s.onWord f) := by
  unfold State.onWord
  split
  · exact h _
  all_goals exact hIllegal

/-- A property of `ILLEGAL_COMMAND` and of the body is one of a command without operands. -/
theorem State.onEmpty_elim {P : State → Prop} {s t : State} (hIllegal : P s.illegal) (h : P t) : P (s.onEmpty t) := by
  unfold State.onEmpty
  split
  · exact h
  all_goals exact hIllegal

/-- `t` has the DSP's setup of `s`. -/
def State.SameSetup (s t : State) : Prop := t.dspState.setup = s.dspState.setup

theorem State.checkOrder_sameSetup (want : Phase) (s : State) : s.SameSetup (s.checkOrder want) := by
  rw [State.checkOrder_eq]
  rfl

theorem State.noteReads_sameSetup (b : BufId) (n : Nat) (s : State) : s.SameSetup (s.noteReads b n) := by
  rw [State.noteReads_eq]
  rfl

theorem State.recv_sameSetup (len : Word) (ws : List Word) (s : State) : s.SameSetup (s.recv len ws) := by
  unfold State.recv
  dsimp only
  split
  · exact (State.noteReads_sameSetup _ _ _).trans (s.checkOrder_sameSetup _)
  · exact s.checkOrder_sameSetup _

theorem State.convertOut_sameSetup (s : State) : s.SameSetup s.convertOut :=
  (State.noteReads_sameSetup _ _ _).trans (State.noteReads_sameSetup _ _ s)

theorem State.reqBlock_sameSetup (s : State) : s.SameSetup s.reqBlock :=
  (State.noteReads_sameSetup _ _ _).trans (s.process.convertOut_sameSetup.trans s.process_setup)

theorem State.req_sameSetup (len : Word) (s : State) : s.SameSetup (s.req len) := by
  unfold State.req
  dsimp only
  split
  · exact (State.reqBlock_sameSetup _).trans (s.checkOrder_sameSetup _)
  · exact s.checkOrder_sameSetup _

theorem State.probe_sameSetup (s : State) : s.SameSetup s.probe := by
  obtain ⟨b, h, st, ok, e⟩ := s.probe_frame
  rw [e]
  rfl

theorem State.enableJack_sameSetup (j : Jack) (s : State) : s.SameSetup (s.enableJack j) := by
  obtain ⟨b, es, r, e⟩ := State.enableJack_frame j s
  rw [e]
  rfl

theorem State.disableJack_sameSetup (j : Jack) (s : State) : s.SameSetup (s.disableJack j) := by
  obtain ⟨b, es, r, e⟩ := State.disableJack_frame j s
  rw [e]
  rfl

theorem State.setControl_sameSetup (c : Control) (j : Jack) (h : Channel) (v : Int) (s : State) :
    s.SameSetup (s.setControl c j h v) := by
  obtain ⟨b, es, iv, r, e⟩ := State.setControl_frame c j h v s
  rw [e]
  rfl

/-- No command changes the setup: the operations that move the DSP's state (`State.sink`, the oracle) keep it. -/
theorem exec_sameSetup (i : Instr) {s t : State} (h : exec i s = .next t) : s.SameSetup t := by
  cases i with
  | cvtDecLj | cvtDecLo24 | cvtEncLj | cvtEncLo24 | cvtTof | cvtFromf =>
    cases h
    exact State.onWord_elim rfl fun _ => rfl
  | cvtDeint | cvtInt =>
    cases h
    repeat' split
    all_goals rfl
  | pipeRecv =>
    cases h
    split
    · split
      · exact State.recv_sameSetup _ _ s
      · rfl
    all_goals rfl
  | pipeReq =>
    cases h
    exact State.onWord_elim rfl fun len => State.req_sameSetup len s
  | codecProbe =>
    cases h
    exact State.onEmpty_elim rfl s.probe_sameSetup
  | codecEnjack j =>
    cases h
    exact State.onEmpty_elim rfl (State.enableJack_sameSetup j s)
  | codecDisjack j =>
    cases h
    exact State.onEmpty_elim rfl (State.disableJack_sameSetup j s)
  | codecInfo c j ch =>
    cases h
    exact State.onEmpty_elim rfl rfl
  | codecSet c j ch =>
    cases h
    exact State.onWord_elim rfl fun v => State.setControl_sameSetup c j ch v.toInt s
  | midiByte b =>
    cases h
    exact State.onEmpty_elim rfl (State.midiStep_setup s b)
  | midiPacket p0 p1 p2 =>
    cases h
    exact State.onEmpty_elim rfl (State.dispatch_setup p0 p1 p2 s)
  | midiPoll =>
    cases h
    exact State.onEmpty_elim rfl (State.midiSteps_setup _ _)

theorem step_sameSetup {s t : State} (h : step s = .next t) : s.SameSetup t := by
  obtain ⟨-, rfl⟩ | ⟨c, rest, -, ⟨e, -, rfl⟩ | ⟨i, -, hi⟩⟩ := step_next_cases h
  · rfl
  · rfl
  · exact exec_sameSetup (s := s.accept c.payload rest) i hi

/-- Settles O60: construction records `Config.dspSetup`, and `step_sameSetup` keeps it. -/
theorem dspIsBuiltFromTheConfiguration : Obligations.DspIsBuiltFromTheConfiguration :=
  ⟨fun _ => rfl, fun _ _ => step_sameSetup⟩

end Sys2Proof.Machine

/-! SUPPORT. The arbiter (41_arbiter.md R151 to R162): the storage that a delivered and a produced block leave, what PIPE.RECV
and PIPE.REQ answer for each length, and the bypass word by word. The obligations O31, O32 and O34. -/

namespace Sys2Proof.Machine

/-! ## A list written over a buffer -/

theorem Buffer.read_writeFrom_zero (b : Buffer) (ws : List Word) (j : Nat) :
    Buffer.read (Buffer.writeFrom b 0 ws) j = if j < ws.length then ws[j]? else Buffer.read b j := by
  simp [Buffer.read_writeFrom]

/-- The storage after `State.bufWriteAll b ws`. -/
def Buffers.writeAll (b : BufId) (ws : List Word) (bs : Buffers) : Buffers :=
  bs.set b (Buffer.writeFrom (bs.get b) 0 ws)

theorem State.bufWriteAll_eq_writeAll (b : BufId) (ws : List Word) (s : State) :
    s.bufWriteAll b ws = { s with bufs := s.bufs.writeAll b ws } := rfl

@[simp] theorem Buffers.get_writeAll_same (b : BufId) (ws : List Word) (bs : Buffers) :
    (bs.writeAll b ws).get b = Buffer.writeFrom (bs.get b) 0 ws := Buffers.get_set_same _ _ _

theorem Buffers.get_writeAll_other {b c : BufId} (h : c ≠ b) (ws : List Word) (bs : Buffers) :
    (bs.writeAll b ws).get c = bs.get c := Buffers.get_set_other _ h _

/-- Three distinct buffers written: each holds its list over what it held, and the others are as they were. -/
theorem Buffers.get_writeAll_three {a b c : BufId} (hba : b ≠ a) (hca : c ≠ a) (hcb : c ≠ b) (x y z : List Word)
    (bs : Buffers) :
    let bs' := ((bs.writeAll a x).writeAll b y).writeAll c z
    bs'.get a = Buffer.writeFrom (bs.get a) 0 x ∧ bs'.get b = Buffer.writeFrom (bs.get b) 0 y ∧
      bs'.get c = Buffer.writeFrom (bs.get c) 0 z ∧ ∀ d, d ≠ a → d ≠ b → d ≠ c → bs'.get d = bs.get d := by
  refine ⟨?_, ?_, ?_, fun d hda hdb hdc => ?_⟩
  · rw [Buffers.get_writeAll_other hca.symm, Buffers.get_writeAll_other hba.symm, Buffers.get_writeAll_same]
  · rw [Buffers.get_writeAll_other hcb.symm, Buffers.get_writeAll_same, Buffers.get_writeAll_other hba]
  · rw [Buffers.get_writeAll_same, Buffers.get_writeAll_other hcb, Buffers.get_writeAll_other hca]
  · rw [Buffers.get_writeAll_other hdc, Buffers.get_writeAll_other hdb, Buffers.get_writeAll_other hda]

/-! ## The order check -/

/-- The fault record after the order check of R342. -/
def State.orderFaults (want : Phase) (s : State) : FaultSet :=
  if s.phase = want then s.faults else faultAdd .orderViolation s.faults

theorem State.checkOrder_setPhase_eq (want p : Phase) (s : State) :
    (s.checkOrder want).setPhase p = { s with phase := p, faults := s.orderFaults want } := by
  rw [State.checkOrder_eq]
  rfl

/-! ## PIPE.RECV -/

/-- An even `N` is two words a frame. -/
theorem Config.n_eq_frames {c : Config} (heven : c.n % 2 = 0) : c.n = 2 * c.frames := by
  rw [Config.frames]
  omega

/-- The storage after a delivered block (R152). -/
def State.recvBufs (ws : List Word) (s : State) : Buffers :=
  ((s.bufs.writeAll (.inSlot s.selected) ws).writeAll .dspInL (deinterleave s.cfg.frames 0 ws)).writeAll .dspInR
    (deinterleave s.cfg.frames 1 ws)

theorem State.get_recvBufs (ws : List Word) (s : State) :
    (s.recvBufs ws).get (.inSlot s.selected) = Buffer.writeFrom (s.bufs.get (.inSlot s.selected)) 0 ws ∧
    (s.recvBufs ws).get .dspInL = Buffer.writeFrom (s.bufs.get .dspInL) 0 (deinterleave s.cfg.frames 0 ws) ∧
    (s.recvBufs ws).get .dspInR = Buffer.writeFrom (s.bufs.get .dspInR) 0 (deinterleave s.cfg.frames 1 ws) ∧
    ∀ d, d ≠ .inSlot s.selected → d ≠ .dspInL → d ≠ .dspInR → (s.recvBufs ws).get d = s.bufs.get d :=
  Buffers.get_writeAll_three (by simp) (by simp) (by simp) _ _ _ _

theorem exec_pipeRecv_of_lenBlock {s : State} {len : Word} {ws : List Word} (hs : s.operand = .lenBlock len ws)
    (hws : ws.length = len.toNat) : exec .pipeRecv s = .next (s.recv len ws) := by
  simp only [exec, execPipeRecv, hs, if_pos hws]

theorem State.recv_of_length_ne {len : Word} {s : State} (hlen : len.toNat ≠ s.cfg.n) (ws : List Word) :
    s.recv len ws =
      { s with
        operand := .empty
        phase := .awaitOut
        faults := s.orderFaults .awaitIn
        history := s.history ++ [.sizeMismatch .IN len]
        result := some ⟨.sizeMismatch, .empty⟩ } := by
  simp only [State.recv, if_neg hlen, State.checkOrder_setPhase_eq]
  rfl

theorem State.recv_of_length {len : Word} {ws : List Word} {s : State} (heven : s.cfg.n % 2 = 0)
    (hws : ws.length = s.cfg.n) (hlen : len.toNat = s.cfg.n) :
    s.recv len ws =
      { s with
        operand := .empty
        phase := .awaitOut
        faults := s.orderFaults .awaitIn
        bufs := s.recvBufs ws
        result := some ⟨.ok, .empty⟩ } := by
  have hturn : s.recv len ws = State.recvBlock ws { s with phase := .awaitOut, faults := s.orderFaults .awaitIn } := by
    simp only [State.recv, if_pos hlen, State.checkOrder_setPhase_eq]
  rw [hturn, State.recvBlock_eq (s := { s with phase := .awaitOut, faults := s.orderFaults .awaitIn })
    (hws.trans (Config.n_eq_frames heven))]
  simp only [State.bufWriteAll_eq_writeAll, State.respond]
  rfl

/-- An input buffer of `F` elements that one channel of a block was written over. -/
theorem Buffer.read_writeFrom_deinterleave {c : Config} {ws : List Word} {p : Nat} (hws : ws.length = c.n) (hp : p < 2)
    (b : Buffer) (i : Nat) :
    Buffer.read (Buffer.writeFrom b 0 (deinterleave c.frames p ws)) i =
      if i < c.frames then (ws[2 * i + p]?).map fun w => toFloat (w.sshiftRight 8) else Buffer.read b i := by
  rw [Buffer.read_writeFrom_zero, length_deinterleave]
  exact ite_congr rfl (fun hi => getElem?_deinterleave_frames hws hp hi) fun _ => rfl

/-- Settles O31: a mismatch is `State.recv_of_length_ne`, a block is `State.recv_of_length` with the storage of
`State.get_recvBufs`. -/
theorem recvDeliversOrDropsTheBlock : Obligations.RecvDeliversOrDropsTheBlock := by
  refine ⟨rfl, fun s len ws hs hws hlen => ?_, fun s len ws heven hs hws hlen => ?_⟩
  · rw [exec_pipeRecv_of_lenBlock hs hws, State.recv_of_length_ne hlen]
    rfl
  · have hn : ws.length = s.cfg.n := hws.trans hlen
    obtain ⟨hslot, hleft, hright, hother⟩ := s.get_recvBufs ws
    refine ⟨s.recvBufs ws, ?_, fun j => ?_, fun i => ?_, fun i => ?_, fun b hb => ?_⟩
    · rw [exec_pipeRecv_of_lenBlock hs hws, State.recv_of_length heven hn hlen]
      rfl
    · exact (congrArg (Buffer.read · j) hslot).trans (by rw [Buffer.read_writeFrom_zero, hn]; rfl)
    · rw [hleft]
      exact Buffer.read_writeFrom_deinterleave hn (by decide) _ i
    · rw [hright]
      exact Buffer.read_writeFrom_deinterleave hn (by decide) _ i
    · simp only [List.mem_cons, List.not_mem_nil, or_false, not_or] at hb
      obtain ⟨hbSlot, hbLeft, hbRight⟩ := hb
      exact hother b hbSlot hbLeft hbRight

/-! ## PIPE.REQ -/

/-- The DSP's next state and outputs over the input buffers (R157). -/
def State.dspAnswer (s : State) : DspState × List F32 × List F32 :=
  dspOracle s.cfg.frames s.dspState (s.bufVals .dspInL s.cfg.frames) (s.bufVals .dspInR s.cfg.frames)

/-- What the DSP, or the bypass, puts into the left output buffer (R156, R157). -/
def State.outLeft (s : State) : List F32 :=
  if s.cfg.dspBound then s.dspAnswer.2.1 else s.bufVals .dspInL s.cfg.frames

/-- What the DSP, or the bypass, puts into the right output buffer (R156, R157). -/
def State.outRight (s : State) : List F32 :=
  if s.cfg.dspBound then s.dspAnswer.2.2 else s.bufVals .dspInR s.cfg.frames

/-- The block that PIPE.REQ answers (R155). -/
def State.outBlock (s : State) : List Word := interleaveWords s.outLeft s.outRight s.nanDraws

@[simp] theorem State.length_outLeft (s : State) : s.outLeft.length = s.cfg.frames := by
  unfold State.outLeft
  split
  · exact length_dspOracle_left _ _ _ _
  · exact s.length_bufVals _ _

@[simp] theorem State.length_outRight (s : State) : s.outRight.length = s.cfg.frames := by
  unfold State.outRight
  split
  · exact length_dspOracle_right _ _ _ _
  · exact s.length_bufVals _ _

theorem State.length_outLeft_eq (s : State) : s.outLeft.length = s.outRight.length := by simp

theorem State.length_outBlock {s : State} (heven : s.cfg.n % 2 = 0) : s.outBlock.length = s.cfg.n := by
  rw [State.outBlock, length_interleaveWords s.length_outLeft_eq, State.length_outLeft, ← Config.n_eq_frames heven]

/-- The storage after a produced block (R155). -/
def State.reqBufs (s : State) : Buffers :=
  ((s.bufs.writeAll .dspOutL s.outLeft).writeAll .dspOutR s.outRight).writeAll (.outSlot s.selected) s.outBlock

theorem State.get_reqBufs (s : State) :
    s.reqBufs.get .dspOutL = Buffer.writeFrom (s.bufs.get .dspOutL) 0 s.outLeft ∧
    s.reqBufs.get .dspOutR = Buffer.writeFrom (s.bufs.get .dspOutR) 0 s.outRight ∧
    s.reqBufs.get (.outSlot s.selected) = Buffer.writeFrom (s.bufs.get (.outSlot s.selected)) 0 s.outBlock ∧
    ∀ d, d ≠ .dspOutL → d ≠ .dspOutR → d ≠ .outSlot s.selected → s.reqBufs.get d = s.bufs.get d :=
  Buffers.get_writeAll_three (by simp) (by simp) (by simp) _ _ _ _

/-- Every element of both input buffers is written. -/
def State.inputsWritten (s : State) : Bool :=
  (List.range s.cfg.frames).all (s.written .dspInL) && (List.range s.cfg.frames).all (s.written .dspInR)

theorem State.inputsWritten_iff (s : State) :
    s.inputsWritten = true ↔
      (∀ i, i < s.cfg.frames → s.written .dspInL i = true) ∧ (∀ i, i < s.cfg.frames → s.written .dspInR i = true) := by
  simp only [State.inputsWritten, Bool.and_eq_true, List.all_eq_true, List.mem_range]

theorem exec_pipeReq_of_word {s : State} {len : Word} (hs : s.operand = .word len) :
    exec .pipeReq s = .next (s.req len) := congrArg Host.Outcome.next (State.onWord_of_word hs _)

theorem State.req_of_length_ne {len : Word} {s : State} (hlen : len.toNat ≠ s.cfg.n) :
    s.req len =
      { s with
        operand := .empty
        phase := .awaitIn
        faults := s.orderFaults .awaitOut
        history := s.history ++ [.sizeMismatch .OUT len]
        result := some ⟨.sizeMismatch, .request 0 none⟩ } := by
  simp only [State.req, if_neg hlen, State.checkOrder_setPhase_eq]
  rfl

/-- The state that `process` writes both output buffers in. -/
def State.processed (s : State) : State :=
  { s with
    faults := if s.inputsWritten then s.faults else faultAdd .unwrittenRead s.faults
    dspState := if s.cfg.dspBound then s.dspAnswer.1 else s.dspState
    history := if s.cfg.dspBound then s.history ++ [.dspProcess] else s.history }

theorem State.process_eq_processed (s : State) :
    s.process = (s.processed.bufWriteAll .dspOutL s.outLeft).bufWriteAll .dspOutR s.outRight := s.process_eq

/-- Every field after a produced block. -/
theorem State.reqBlock_fields {len : Word} {s : State} (heven : s.cfg.n % 2 = 0) (hlen : len.toNat = s.cfg.n) :
    s.reqBlock =
      { s.processed with
        operand := .empty
        activeIsA := !s.activeIsA
        nanDraws := s.nanDraws + (s.outLeft.countP f32IsNan + s.outRight.countP f32IsNan)
        bufs := s.reqBufs
        result := some ⟨.ok, .request len (some s.outBlock)⟩ } := by
  have hword : BitVec.ofNat 32 s.cfg.n = len := by rw [← hlen, BitVec.ofNat_toNat, BitVec.setWidth_eq]
  rw [State.reqBlock_eq s.length_outLeft s.length_outRight (Config.n_eq_frames heven) s.process_eq_processed rfl, hword]
  simp only [State.bufWriteAll_eq_writeAll, State.setDraws, State.flip, State.respond]
  rfl

theorem State.req_of_length {len : Word} {s : State} (heven : s.cfg.n % 2 = 0) (hlen : len.toNat = s.cfg.n) :
    s.req len =
      { s.processed with
        operand := .empty
        phase := .awaitIn
        activeIsA := !s.activeIsA
        faults := if s.inputsWritten then s.orderFaults .awaitOut else faultAdd .unwrittenRead (s.orderFaults .awaitOut)
        nanDraws := s.nanDraws + (s.outLeft.countP f32IsNan + s.outRight.countP f32IsNan)
        bufs := s.reqBufs
        result := some ⟨.ok, .request len (some s.outBlock)⟩ } := by
  have hturn : s.req len = ({ s with phase := .awaitIn, faults := s.orderFaults .awaitOut } : State).reqBlock := by
    simp only [State.req, if_pos hlen, State.checkOrder_setPhase_eq]
  exact hturn.trans (State.reqBlock_fields heven hlen)

/-- Settles O32: a mismatch is `State.req_of_length_ne`, a block is `State.req_of_length` with the storage of
`State.get_reqBufs`. -/
theorem reqProducesTheBlockOrNothing : Obligations.ReqProducesTheBlockOrNothing := by
  refine ⟨rfl, fun s len hs hlen => ?_, fun s len heven hs hlen => ?_⟩
  · rw [exec_pipeReq_of_word hs, State.req_of_length_ne hlen]
    rfl
  · intro f slot inL inR out lo ro block ordered
    obtain ⟨hleft, hright, hslot, hother⟩ := s.get_reqBufs
    have hblock : s.outBlock.length = s.cfg.n := State.length_outBlock heven
    refine ⟨s.length_outLeft, s.length_outRight, hblock, s.reqBufs, ?_, fun j => ?_, fun i => ?_, fun i => ?_,
      fun b hb => ?_⟩
    · rw [exec_pipeReq_of_word hs, State.req_of_length heven hlen]
      simp only [State.inputsWritten_iff]
      rfl
    · exact (congrArg (Buffer.read · j) hslot).trans (by rw [Buffer.read_writeFrom_zero, hblock]; rfl)
    · rw [hleft, Buffer.read_writeFrom_zero, State.length_outLeft]
      rfl
    · rw [hright, Buffer.read_writeFrom_zero, State.length_outRight]
      rfl
    · simp only [List.mem_cons, List.not_mem_nil, or_false, not_or] at hb
      obtain ⟨hbSlot, hbLeft, hbRight⟩ := hb
      exact hother b hbLeft hbRight hbSlot

/-! ## The bypass -/

/-- With no DSP, from a state that holds a delivered block, the output buffers take its two channels. -/
theorem State.out_of_recvBufs {s t : State} {ws : List Word} (hdsp : t.cfg.dspBound = false) (hcfg : t.cfg = s.cfg)
    (hbufs : t.bufs = s.recvBufs ws) :
    t.outLeft = deinterleave s.cfg.frames 0 ws ∧ t.outRight = deinterleave s.cfg.frames 1 ws := by
  obtain ⟨-, hleft, hright, -⟩ := s.get_recvBufs ws
  rw [← hbufs] at hleft hright
  have hval (b : BufId) (xs : List Word) (hxs : xs.length = s.cfg.frames)
      (hb : t.bufs.get b = Buffer.writeFrom (s.bufs.get b) 0 xs) : t.bufVals b t.cfg.frames = xs := by
    rw [State.bufVals_congr (t := s.bufWriteAll b xs) (hb.trans (State.buf_bufWriteAll_same b xs s).symm), hcfg, ← hxs,
      State.bufVals_bufWriteAll]
  simp only [State.outLeft, State.outRight, hdsp]
  exact ⟨hval .dspInL _ (length_deinterleave _ _ _) hleft, hval .dspInR _ (length_deinterleave _ _ _) hright⟩

/-- One word through both conversions (R162): `CLAMP_HI` cuts off the eight largest samples. -/
theorem wireEncode_fromFloat_toFloat (w : Word) (k : Nat) :
    wireEncode (fromFloat (toFloat (w.sshiftRight 8)) k) =
      if (w.sshiftRight 8).toInt ≤ 8388599 then w &&& 0xFFFFFF00 else 0x7FFFF700 := by
  obtain ⟨hlow, hhigh⟩ : -8388608 ≤ (decLj w).toInt ∧ (decLj w).toInt ≤ 8388607 := toInt_sext24_range _
  obtain ⟨hexact, hclamp⟩ := scaleLaw (decLj w) k hlow hhigh
  rw [← decLj_eq_sshiftRight]
  split
  · next hle => exact (congrArg encLj (hexact hle)).trans (encLj_decLj w)
  · next hgt =>
    have hsample : fromFloat (toFloat (decLj w)) k = 8388599 := BitVec.eq_of_toInt_eq (hclamp (by omega))
    rw [hsample]
    rfl

/-- A block through both channels and back: word `j` is word `j` of the input, converted there and back. -/
theorem getElem?_interleaveWords_deinterleave {c : Config} (heven : c.n % 2 = 0) {ws : List Word} (hws : ws.length = c.n)
    (k j : Nat) (w : Word) (hw : ws[j]? = some w) :
    (interleaveWords (deinterleave c.frames 0 ws) (deinterleave c.frames 1 ws) k)[j]? =
      some (if (w.sshiftRight 8).toInt ≤ 8388599 then w &&& 0xFFFFFF00 else 0x7FFFF700) := by
  have hlen : (deinterleave c.frames 0 ws).length = (deinterleave c.frames 1 ws).length := by simp
  have hj : j < 2 * c.frames := Config.n_eq_frames heven ▸ hws ▸ (List.getElem?_eq_some_iff.1 hw).1
  have helem {p i : Nat} (hp : p < 2) (hji : j = 2 * i + p) :
      (deinterleave c.frames p ws)[i]? = some (toFloat (w.sshiftRight 8)) := by
    rw [getElem?_deinterleave_frames hws hp (by omega), ← hji, hw, Option.map_some]
  obtain ⟨i, rfl | rfl⟩ := Nat.even_or_odd' j
  · rw [(getElem?_interleaveWords k i hlen).1 _ (helem (p := 0) (by decide) rfl), wireEncode_fromFloat_toFloat]
  · rw [(getElem?_interleaveWords k i hlen).2 _ (helem (p := 1) (by decide) rfl), wireEncode_fromFloat_toFloat]

/-- Settles O34: the block delivered is the block produced, word by word. -/
theorem bypassFidelity : Obligations.BypassFidelity := by
  intro s len ws hdsp heven hws hlen
  let s0 : State := { s with operand := .lenBlock len ws }
  let t : State := { s0.recv len ws with operand := .word len }
  have hrecv := State.recv_of_length (s := s0) heven hws hlen
  have hcfg : t.cfg = s.cfg := (congrArg State.cfg hrecv :)
  have hbufs : t.bufs = s0.recvBufs ws := (congrArg State.bufs hrecv :)
  have heven' : t.cfg.n % 2 = 0 := hcfg ▸ heven
  obtain ⟨hleft, hright⟩ := State.out_of_recvBufs (s := s0) (hcfg ▸ hdsp) hcfg hbufs
  refine ⟨s0.recv len ws, t.req len, t.outBlock, exec_pipeRecv_of_lenBlock rfl (hws.trans hlen.symm),
    exec_pipeReq_of_word rfl, ?_, ?_, fun j w hw => ?_⟩
  · rw [State.req_of_length heven' (hcfg ▸ hlen)]
  · rw [State.length_outBlock heven', hcfg]
  · rw [State.outBlock, hleft, hright]
    exact getElem?_interleaveWords_deinterleave heven hws _ j w hw

end Sys2Proof.Machine

/-! SUPPORT. The codec register-write sequencer (42_codec_sequencer.md): the register write and the volume codes as
arithmetic, the control table, and each CODEC command as one state update. The obligations O37 to O42, O44 to O47 and O49. -/

namespace Sys2Proof.Machine

/-! ## The register write and the bring-up table -/

/-- The shifted address leaves bit 0 free for the top bit of the value. -/
theorem toNat_wrByte0 (a : RegAddr) (v : RegVal) : (wrByte0 a v).toNat = 2 * a.toNat + v.toNat / 256 := by
  have hsum : 2 ^ 1 * a.toNat + v.toNat / 256 = 2 ^ 1 * a.toNat ||| v.toNat / 256 :=
    Nat.two_pow_add_eq_or_of_lt (by omega) _
  have haddr : (a.setWidth 8 <<< 1).toNat = 2 ^ 1 * a.toNat := by
    rw [BitVec.toNat_shiftLeft, BitVec.toNat_setWidth, Nat.shiftLeft_eq]
    omega
  have hval : ((v >>> 8).setWidth 8).toNat = v.toNat / 256 := by
    rw [BitVec.toNat_setWidth, BitVec.toNat_ushiftRight, Nat.shiftRight_eq_div_pow]
    omega
  rw [wrByte0, BitVec.toNat_or, haddr, hval, ← hsum, pow_one]

theorem toNat_wrByte1 (v : RegVal) : (wrByte1 v).toNat = v.toNat % 256 := BitVec.toNat_setWidth 8 v

/-- Settles O37: `State.wr_eq`, with the two bytes as arithmetic. -/
theorem registerWriteIsTwoBytes : Obligations.RegisterWriteIsTwoBytes := fun s a v =>
  ⟨wrByte0 a v, wrByte1 v, State.wr_eq a v s, toNat_wrByte0 a v, toNat_wrByte1 v⟩

/-- Settles O38: the segments are the definitions; the rate decides which PLL table stands between them. -/
theorem bringUpSegments : Obligations.BringUpSegments := by
  refine fun c v => ⟨rfl, ?_⟩
  unfold bringUp pllTable
  split
  · rfl
  · split <;> rfl

/-! ## The volume codes -/

theorem toNat_inputCode {dB : Int} (hlow : -17 ≤ dB) (hhigh : dB ≤ 30) :
    ((inputCode dB).toNat : Int) = (dB + 17) * 100 / 75 := by
  obtain ⟨n, hn⟩ := Int.eq_ofNat_of_zero_le (show 0 ≤ dB + 17 by omega)
  rw [inputCode, hn, Int.toNat_natCast, BitVec.toNat_ofNat, Nat.mod_eq_of_lt (by omega)]
  push_cast
  rfl

theorem toNat_outputCode {dB : Int} (hlow : -73 ≤ dB) (hhigh : dB ≤ 6) :
    ((outputCode dB).toNat : Int) = dB + 73 + 0x30 := by
  rw [outputCode, BitVec.toNat_ofInt]
  omega

/-- Settles O49: both codes are the integers that R233 and R238 give, and the rest is arithmetic on them. -/
theorem volumeCodes : Obligations.VolumeCodes := by
  refine ⟨fun dB hlow hhigh => ?_, fun dB hlow hhigh => ?_, fun a b hlow hab hhigh => ?_, fun a b hlow hab hhigh => ?_⟩
  · have hcode := toNat_inputCode hlow hhigh
    omega
  · have hcode := toNat_outputCode hlow hhigh
    omega
  · have ha := toNat_inputCode hlow (hab.trans hhigh)
    have hb := toNat_inputCode (hlow.trans hab) hhigh
    omega
  · have ha := toNat_outputCode hlow (hab.trans hhigh)
    have hb := toNat_outputCode (hlow.trans hab) hhigh
    omega

theorem inputCode_eq_ofInt {dB : Int} (hlow : -17 ≤ dB) (hhigh : dB ≤ 30) :
    inputCode dB = BitVec.ofInt 8 ((dB + 17) * 100 / 75) := by
  rw [← toNat_inputCode hlow hhigh, BitVec.ofInt_natCast, BitVec.ofNat_toNat, BitVec.setWidth_eq]

/-- The code is below `0x100`, so setting bit 8 adds it (R206). -/
theorem outputValue_eq_ofInt {dB : Int} (hlow : -73 ≤ dB) (hhigh : dB ≤ 6) :
    outputValue dB = BitVec.ofInt 9 (0x100 + (dB + 121)) := by
  have hcode := toNat_outputCode hlow hhigh
  have hsum : (outputValue dB).toNat = 2 ^ 8 * 1 + (outputCode dB).toNat :=
    (BitVec.toNat_or ..).trans (Nat.two_pow_add_eq_or_of_lt (i := 8) (by omega) 1).symm
  apply BitVec.eq_of_toNat_eq
  rw [hsum, BitVec.toNat_ofInt]
  omega

/-! ## Commands without operands -/

/-- With no operand the body of the command runs. -/
theorem State.onEmpty_of_empty {s : State} (h : s.operand = .empty) (t : State) : s.onEmpty t = t := by
  rw [State.onEmpty, h]

/-- What CODEC.PROBE answers, by whether the writes it issued were acknowledged and the rate has a table. -/
theorem probeResponse_eq (acked rate : Prop) [Decidable acked] [Decidable rate] :
    (⟨if decide acked then (if decide rate then .ok else .rateUnsupported) else .busWriteFailure,
      .flag (decide acked && decide rate)⟩ : Response) =
      if acked then if rate then ⟨.ok, .flag true⟩ else ⟨.rateUnsupported, .flag false⟩
      else ⟨.busWriteFailure, .flag false⟩ := by
  by_cases hacked : acked
  · by_cases hrate : rate <;> simp [hacked, hrate]
  · simp [hacked]

/-- Settles O39: `State.probe_eq` and `State.wrAll_eq`; the status by whether every write was acknowledged. -/
theorem probeWalksTheBringUpTable : Obligations.ProbeWalksTheBringUpTable := by
  refine ⟨rfl, fun s hs => congrArg Host.Outcome.next ?_⟩
  rw [State.onEmpty_of_empty hs, State.probe_eq, State.wrAll_eq, pllTable_isSome]
  simp only [State.respond, reliableFor, probeResponse_eq]
  rfl

/-- The response of a command after writes of which all were acknowledged exactly when `acked`. -/
theorem finishWrites_decide (acked : Prop) [Decidable acked] (t : State) :
    finishWrites (decide acked, t) =
      { t with
        operand := .empty
        result := some (if acked then ⟨.ok, .flag true⟩ else ⟨.busWriteFailure, .flag false⟩) } := by
  by_cases hacked : acked <;> simp [finishWrites, State.respond, hacked]

/-- A command that ends with one register write. -/
theorem finishWrites_wr (s : State) (a : RegAddr) (v : RegVal) :
    finishWrites (s.wr a v) =
      { s with
        operand := .empty
        bus := (busAnswer s.bus).2
        history := s.history ++ [writeEvent s.cfg ⟨a, v⟩ (busAnswer s.bus).1]
        result := some (if (busAnswer s.bus).1 = 2 then ⟨.ok, .flag true⟩ else ⟨.busWriteFailure, .flag false⟩) } :=
  finishWrites_decide ..

/-- Settles O40: `finishWrites_wr` for Speaker, the plain response for another jack. -/
theorem enableJack : Obligations.EnableJack := by
  refine ⟨fun j => by cases j <;> rfl, fun j s hs => ⟨fun hj => ?_, fun hj => ?_⟩⟩
  all_goals refine congrArg Host.Outcome.next ((State.onEmpty_of_empty hs _).trans ?_)
  · exact (if_pos hj).trans (finishWrites_wr ..)
  · exact if_neg hj

/-- Settles O41: `finishWrites_wr` for Speaker, the plain response for another jack. -/
theorem disableJack : Obligations.DisableJack := by
  refine ⟨fun j => by cases j <;> rfl, fun j s hs => ⟨fun hj => ?_, fun hj => ?_⟩⟩
  all_goals refine congrArg Host.Outcome.next ((State.onEmpty_of_empty hs _).trans ?_)
  · exact (if_pos hj).trans (finishWrites_wr ..)
  · exact if_neg hj

/-! ## The control table -/

/-- The jacks without an output volume are the two input jacks (R204). -/
theorem outJack_eq_none_iff (j : Jack) : outJack j = none ↔ j = .microphone ∨ j = .defaultIn := by cases j <;> decide

/-- The table of R228, by the conditions of its rows. -/
theorem infoPayload_controlInfo (c : Control) (j : Jack) (h : Channel) :
    infoPayload (controlInfo c j h) =
      if (c = .mute ∧ outJack j = none) ∨ (c = .alc ∧ outJack j = none ∧ h = .all) then .info true 0 1
      else if c = .volume ∧ outJack j = none then .info true (BitVec.ofInt 32 (-17)) 30
      else if c = .volume then .info true (BitVec.ofInt 32 (-73)) 6
      else .info false 0 0 := by
  unfold controlInfo
  cases c <;> cases outJack j <;> cases h <;> rfl

/-- Settles O42: the response is the row of `infoPayload_controlInfo`. -/
theorem infoReportsTheRanges : Obligations.InfoReportsTheRanges := by
  refine ⟨fun c j h => by cases c <;> cases j <;> cases h <;> rfl, fun c j h s hs => ?_⟩
  refine congrArg Host.Outcome.next ((State.onEmpty_of_empty hs _).trans ?_)
  simp only [infoPayload_controlInfo, outJack_eq_none_iff]
  rfl

/-! ## CODEC.SET: the arm of a supported value in range -/

/-- With a word operand CODEC.SET runs on the word as a signed value (D38). -/
theorem exec_codecSet_of_word {s : State} {v : Word} (hs : s.operand = .word v) (c : Control) (j : Jack) (h : Channel) :
    exec (.codecSet c j h) s = .next (s.setControl c j h v.toInt) :=
  congrArg Host.Outcome.next (State.onWord_of_word hs _)

theorem State.setControl_volume_input {j : Jack} {dB : Int} (hj : outJack j = none) (hlow : -17 ≤ dB) (hhigh : dB ≤ 30)
    (h : Channel) (s : State) : s.setControl .volume j h dB = s.setInputVolume h dB := by
  simp [State.setControl, controlInfo, hj, not_lt.2 hlow, not_lt.2 hhigh]

theorem State.setControl_volume_output {j : Jack} {o : OutJack} {dB : Int} (hj : outJack j = some o) (hlow : -73 ≤ dB)
    (hhigh : dB ≤ 6) (h : Channel) (s : State) : s.setControl .volume j h dB = s.setOutputVolume o h dB := by
  simp [State.setControl, controlInfo, hj, not_lt.2 hlow, not_lt.2 hhigh]

theorem State.setControl_mute {j : Jack} {value : Int} (hj : outJack j = none) (hlow : 0 ≤ value) (hhigh : value ≤ 1)
    (h : Channel) (s : State) : s.setControl .mute j h value = s.setMute h value := by
  simp [State.setControl, controlInfo, hj, not_lt.2 hlow, not_lt.2 hhigh]

theorem State.setControl_alc {j : Jack} {value : Int} (hj : outJack j = none) (hlow : 0 ≤ value) (hhigh : value ≤ 1)
    (s : State) : s.setControl .alc j .all value = s.setAlc value := by
  simp [State.setControl, controlInfo, hj, not_lt.2 hlow, not_lt.2 hhigh]

/-! ## CODEC.SET: the cache, then the PGA writes -/

/-- The cache after an update of the channels that a selector names. -/
def updatedCache (h : Channel) (f : Byte → Byte) (p : PerSide Byte) : PerSide Byte :=
  ⟨if Side.left ∈ chans h then f p.left else p.left, if Side.right ∈ chans h then f p.right else p.right⟩

theorem State.updateVols_chans_eq (h : Channel) (f : Byte → Byte) (s : State) :
    s.updateVols (chans h) f = { s with inputVolume := updatedCache h f s.inputVolume } := State.updateVols_chans h f s

theorem sideOf_updatedCache (h : Channel) (f : Byte → Byte) (p : PerSide Byte) (c : Side) :
    sideOf (updatedCache h f p) c = if c ∈ chans h then f (sideOf p c) else sideOf p c := by cases c <;> rfl

/-- The byte that `State.setInputVolume` puts in the place of a cached one. -/
def volumeByte (dB : Int) (b : Byte) : Byte := (b &&& 0x80) ||| inputCode dB

/-- The byte that `State.setMute` puts in the place of a cached one. -/
def muteByte (value : Int) (b : Byte) : Byte := (b &&& 0x7F#8) ||| (BitVec.ofInt 8 value <<< 7)

theorem State.setInputVolume_eq (h : Channel) (dB : Int) (s : State) :
    s.setInputVolume h dB =
      let t : State := { s with inputVolume := updatedCache h (volumeByte dB) s.inputVolume }
      finishWrites (t.wrAll (t.pgaWrites (chans h))) := by
  rw [← State.updateVols_chans_eq]
  rfl

theorem State.setMute_eq (h : Channel) (value : Int) (s : State) :
    s.setMute h value =
      let t : State := { s with inputVolume := updatedCache h (muteByte value) s.inputVolume }
      finishWrites (t.wrAll (t.pgaWrites (chans h))) := by
  rw [← State.updateVols_chans_eq]
  rfl

theorem volumeByte_eq_ofInt {dB : Int} (hlow : -17 ≤ dB) (hhigh : dB ≤ 30) (b : Byte) :
    volumeByte dB b = (b &&& 0x80) ||| BitVec.ofInt 8 ((dB + 17) * 100 / 75) := by
  rw [volumeByte, inputCode_eq_ofInt hlow hhigh]

theorem getLsbD_and_lowSeven (b : Byte) (k : Nat) : (b &&& 0x7F#8).getLsbD k = (b.getLsbD k && decide (k < 7)) := by
  have hmask : Nat.testBit 0x7F k = decide (k < 7) := Nat.testBit_two_pow_sub_one 7 k
  rw [BitVec.getLsbD_and, BitVec.getLsbD_ofNat, hmask]
  grind

/-- Only bit 7 of a byte is new under a mute value, whatever the value's higher bits (R235). -/
theorem getLsbD_muteByte (v : Word) (b : Byte) (k : Nat) :
    (muteByte v.toInt b).getLsbD k = if k = 7 then v.getLsbD 0 else b.getLsbD k := by
  have hvalue : (BitVec.ofInt 8 v.toInt).getLsbD 0 = v.getLsbD 0 := BitVec.getLsbD_signExtend v
  rw [muteByte, BitVec.getLsbD_or, getLsbD_and_lowSeven, BitVec.getLsbD_shiftLeft]
  obtain hk | rfl | hk := Nat.lt_trichotomy k 7
  · simp [hk, hk.ne]
  · simpa using hvalue
  · have hk8 : ¬ k < 8 := Nat.not_lt.2 hk
    simp [hk.not_gt, hk.ne', hk8, BitVec.getLsbD_of_ge b k hk]

/-- Settles O44: `updatedCache` by the input code, then the writes of `finishWrites_wrAll`. -/
theorem setInputVolume : Obligations.SetInputVolume := by
  intro j h s v hj hs hlow hhigh
  refine ⟨updatedCache h (volumeByte v.toInt) s.inputVolume, fun c => ?_, ?_⟩
  · rw [sideOf_updatedCache, volumeByte_eq_ofInt hlow hhigh]
  · rw [exec_codecSet_of_word hs, State.setControl_volume_input ((outJack_eq_none_iff j).2 hj) hlow hhigh,
      State.setInputVolume_eq, finishWrites_wrAll]
    rfl

/-- Settles O45: the writes of `finishWrites_wrAll`, their values by `outputValue_eq_ofInt`. -/
theorem setOutputVolume : Obligations.SetOutputVolume := by
  intro o j h s v hj hs hlow hhigh
  rw [exec_codecSet_of_word hs, State.setControl_volume_output hj hlow hhigh, State.setOutputVolume, finishWrites_wrAll,
    outputValue_eq_ofInt hlow hhigh]

/-- A mute or ALC operand as a signed value. -/
theorem toInt_range_of_bit {v : Word} (hv : v = 0 ∨ v = 1) : 0 ≤ v.toInt ∧ v.toInt ≤ 1 := by
  rcases hv with rfl | rfl <;> decide

/-- Settles O46: `updatedCache` by the mute bit, then the writes of `finishWrites_wrAll`. -/
theorem setMute : Obligations.SetMute := by
  intro j h s v hj hs hv
  obtain ⟨hlow, hhigh⟩ := toInt_range_of_bit hv
  refine ⟨updatedCache h (muteByte v.toInt) s.inputVolume, fun c k => ?_, ?_⟩
  · rw [sideOf_updatedCache]
    by_cases hc : c ∈ chans h
    · simp only [hc, if_true, true_and, getLsbD_muteByte]
    · simp only [hc, if_false, false_and]
  · rw [exec_codecSet_of_word hs, State.setControl_mute ((outJack_eq_none_iff j).2 hj) hlow hhigh,
      State.setMute_eq, finishWrites_wrAll]
    rfl

/-- Settles O47: on, the right channel's new byte and then the writes of `finishWrites_wrAll`; off, the writes alone. -/
theorem setAlc : Obligations.SetAlc := by
  intro j s v hj hs hv
  obtain ⟨hlow, hhigh⟩ := toInt_range_of_bit hv
  rw [exec_codecSet_of_word hs, State.setControl_alc ((outJack_eq_none_iff j).2 hj) hlow hhigh, State.setAlc]
  rcases hv with rfl | rfl
  · rw [if_neg (by decide), finishWrites_wrAll]
    rfl
  · rw [if_pos (by decide), finishWrites_wrAll]
    rfl

end Sys2Proof.Machine

/-! SUPPORT. The MIDI parser (43_midi.md): the classes of a byte, what a message is forwarded as, the equation of one byte for
each class and each state of the parser, and what the byte path may append to the history. The obligations O52 and O54 to
O57. -/

namespace Sys2Proof.Machine

/-! ## The command words -/

/-- A command word is the opcode's byte shifted to the top, and the fields below it. -/
theorem encode_eq_or (i : Instr) : encode i = i.opcode.code.setWidth 32 <<< 24 ||| i.fields.setWidth 32 := by
  rw [encode, ← BitVec.setWidth_append_eq_shiftLeft_setWidth_or, BitVec.setWidth_eq]

theorem encode_midiByte (b : Byte) : encode (.midiByte b) = (0x30000000 : Word) ||| b.setWidth 32 := by
  have hop : (0x30 : Byte).setWidth 32 <<< 24 = (0x30000000 : Word) := by decide
  have hzero : (0#16).setWidth 32 <<< 8 = 0#32 := by decide
  rw [encode_eq_or, Instr.opcode, Opcode.code, hop, Instr.fields, BitVec.setWidth_append_eq_shiftLeft_setWidth_or, hzero,
    BitVec.zero_or]

theorem encode_midiPacket (p0 p1 p2 : Byte) : encode (.midiPacket p0 p1 p2)
    = (0x31000000 : Word) ||| (p0.setWidth 32 <<< 16) ||| (p1.setWidth 32 <<< 8) ||| p2.setWidth 32 := by
  have hop : (0x31 : Byte).setWidth 32 <<< 24 = (0x31000000 : Word) := by decide
  rw [encode_eq_or, Instr.opcode, Opcode.code, hop, Instr.fields,
    BitVec.setWidth_append_append_eq_shiftLeft_setWidth_or, ← BitVec.or_assoc, ← BitVec.or_assoc]

/-! ## The classes of a byte (43_midi.md R251) -/

theorem getLsbD_seven_eq (b : Byte) : b.getLsbD 7 = decide (128 ≤ b.toNat) := by
  rw [← BitVec.msb_eq_getLsbD_last, BitVec.msb_eq_decide]

theorem extractLsb'_highNibble (b : Byte) : b.extractLsb' 4 4 = BitVec.ofNat 4 (b.toNat / 16) := by
  rw [BitVec.extractLsb', Nat.shiftRight_eq_div_pow]

theorem acceptsStatus_iff (b : Byte) :
    acceptsStatus b = true ↔ b.toNat / 16 = 0x8 ∨ b.toNat / 16 = 0x9 ∨ b.toNat / 16 = 0xB := by
  have hb := b.isLt
  simp only [acceptsStatus, extractLsb'_highNibble, Bool.or_eq_true, beq_iff_eq, ← BitVec.toNat_inj, BitVec.toNat_ofNat]
  omega

/-- A byte that state 0 accepts is a status byte. -/
theorem toNat_ge_of_acceptsStatus {b : Byte} (h : acceptsStatus b = true) : 128 ≤ b.toNat := by
  rw [acceptsStatus_iff] at h
  omega

/-- The mask `0xF0` keeps the high nibble in its place. -/
theorem and_highNibble (b : Byte) : b &&& 0xF0 = BitVec.ofNat 4 (b.toNat / 16) ++ 0#4 := by
  conv_lhs => rw [← BitVec.extractLsb'_append_extractLsb' (w := 4) (len := 4) (x := b)]
  rw [show (0xF0 : Byte) = BitVec.allOnes 4 ++ 0#4 from rfl, BitVec.and_append, BitVec.and_zero, BitVec.and_allOnes,
    extractLsb'_highNibble]

theorem and_lowNibble (b : Byte) : b &&& 0x0F = BitVec.ofNat 8 (b.toNat % 16) := by
  apply BitVec.eq_of_toNat_eq
  have hlow : (b &&& 0x0F).toNat = b.toNat % 16 := (BitVec.toNat_and b 0x0F).trans (Nat.and_two_pow_sub_one_eq_mod _ 4)
  rw [hlow, BitVec.toNat_ofNat]
  omega

/-! ## A dispatch (43_midi.md R253 to R255) -/

/-- What a message is forwarded as, by the high nibble of its status byte. -/
theorem sinkCallOf_eq (st d1 d2 : Byte) :
    sinkCallOf st d1 d2 =
      let t := st.toNat / 16
      let ch := BitVec.ofNat 8 (st.toNat % 16)
      if t = 0x8 ∨ (t = 0x9 ∧ d2 = 0) then some ⟨3, 0, 0x80, ch, d1, d2⟩
      else if t = 0x9 then some ⟨3, 0, 0x90, ch, d1, d2⟩
      else if t = 0xB then some ⟨3, 0, 0xB0, ch, d1, d2⟩
      else if t = 0xC then some ⟨2, 0, 0xC0, ch, d1, 0⟩
      else if t = 0xD then some ⟨2, 0, 0xD0, ch, d1, 0⟩
      else if t = 0xE then some ⟨3, 0, 0xE0, ch, d1, d2⟩
      else none := by
  have ht : st.toNat / 16 < 16 := Nat.div_lt_of_lt_mul st.isLt
  rw [sinkCallOf, and_highNibble, and_lowNibble]
  generalize st.toNat / 16 = t at ht ⊢
  by_cases hd : d2 = 0
  · subst hd
    interval_cases t <;> rfl
  · have hvelocity : ¬ d2 = 0#8 := hd
    interval_cases t <;> simp [hvelocity]

/-- With a DSP bound a dispatch is the sink call of the message, where it has one. -/
theorem State.dispatch_of_dsp {s : State} (h : s.cfg.dspBound = true) (st d1 d2 : Byte) :
    s.dispatch st d1 d2 = (sinkCallOf st d1 d2).elim s s.sink := by
  rw [State.dispatch, if_pos h]
  cases sinkCallOf st d1 d2 <;> rfl

/-- An update of what neither a sink call nor its guard speaks of can be made before or after a dispatch. -/
theorem State.dispatch_comm {g : State → State} {s : State} (hcfg : (g s).cfg = s.cfg)
    (hsink : ∀ c, (g s).sink c = g (s.sink c)) (st d1 d2 : Byte) :
    (g s).dispatch st d1 d2 = g (s.dispatch st d1 d2) := by
  cases h : s.cfg.dspBound with
  | false => rw [State.dispatch_noDsp h, State.dispatch_noDsp (hcfg ▸ h)]
  | true =>
    rw [State.dispatch_of_dsp h, State.dispatch_of_dsp (hcfg ▸ h)]
    cases sinkCallOf st d1 d2 with
    | none => rfl
    | some c => exact hsink c

/-- Settles O54: the table of `sinkCallOf_eq`, each entry made as a call of the sink. -/
theorem dispatchTable : Obligations.DispatchTable := by
  intro st d1 d2 s
  refine ⟨fun h => State.dispatch_noDsp h st d1 d2, fun h => ?_⟩
  rw [State.dispatch_of_dsp h, sinkCallOf_eq]
  simp only [apply_ite (Option.elim · s s.sink)]
  rfl

/-- Settles O55: the word of `encode_midiPacket`; by `State.dispatch_frame` a dispatch leaves the parser alone. -/
theorem midiPacketDispatches : Obligations.MidiPacketDispatches := by
  refine ⟨encode_midiPacket, fun p0 p1 p2 s hs => ⟨congrArg Host.Outcome.next (State.onEmpty_of_empty hs _), ?_⟩⟩
  obtain ⟨d, h, e⟩ := State.dispatch_frame p0 p1 p2 s
  rw [e]
  exact ⟨rfl, rfl⟩

/-! ## One byte (43_midi.md R252) -/

/-- The history once a status byte has discarded the partial message, if there is one (60_exceptions.md R307). -/
def State.historyAfterStatus (s : State) (b : Byte) : List Event :=
  if s.mstate = .awaitingStatus then s.history else s.history ++ [.desync b]

theorem State.resync_of_status {b : Byte} (hb : 128 ≤ b.toNat) (s : State) :
    s.resync b = { s with mstate := .awaitingStatus, history := s.historyAfterStatus b } := by
  have hbit : b.getLsbD 7 = true := by rw [getLsbD_seven_eq, decide_eq_true hb]
  by_cases hm : s.mstate = .awaitingStatus
  · rw [State.resync, State.historyAfterStatus, if_neg (fun h => h.1 hm), if_pos hm, ← hm]
  · rw [State.resync, State.historyAfterStatus, if_pos ⟨hm, hbit⟩, if_neg hm]
    rfl

theorem State.resync_of_data {b : Byte} (hb : b.toNat < 128) (s : State) : s.resync b = s := by
  have hbit : b.getLsbD 7 = false := by rw [getLsbD_seven_eq, decide_eq_false (Nat.not_le.2 hb)]
  rw [State.resync, hbit, if_neg (fun h => Bool.false_ne_true h.2)]

/-- An accepted status byte starts a message, whatever the parser was in the middle of. -/
theorem State.midiStep_of_accepted {b : Byte} (h : acceptsStatus b = true) (s : State) :
    s.midiStep b =
      { s with history := s.historyAfterStatus b, mstate := .awaitingData1, mbuf := { s.mbuf with b0 := b } } := by
  rw [State.midiStep, State.resync_of_status (toNat_ge_of_acceptsStatus h), State.parse, if_pos h]
  rfl

/-- Any other status byte leaves the parser awaiting one. -/
theorem State.midiStep_of_unaccepted {b : Byte} (hb : 128 ≤ b.toNat) (h : ¬ acceptsStatus b = true) (s : State) :
    s.midiStep b = { s with history := s.historyAfterStatus b, mstate := .awaitingStatus } := by
  rw [State.midiStep, State.resync_of_status hb, State.parse, if_neg h]

theorem State.midiStep_data_awaitingStatus {b : Byte} (hb : b.toNat < 128) {s : State} (hm : s.mstate = .awaitingStatus) :
    s.midiStep b = s := by
  have hno : ¬ acceptsStatus b = true := fun h => Nat.not_le.2 hb (toNat_ge_of_acceptsStatus h)
  rw [State.midiStep, State.resync_of_data hb, State.parse, hm]
  exact if_neg hno

theorem State.midiStep_data_awaitingData1 {b : Byte} (hb : b.toNat < 128) {s : State} (hm : s.mstate = .awaitingData1) :
    s.midiStep b = { s with mstate := .awaitingData2, mbuf := { s.mbuf with b1 := b } } := by
  rw [State.midiStep, State.resync_of_data hb, State.parse, hm]
  rfl

theorem State.midiStep_data_awaitingData2 {b : Byte} (hb : b.toNat < 128) {s : State} (hm : s.mstate = .awaitingData2) :
    s.midiStep b =
      { s.dispatch s.mbuf.b0 s.mbuf.b1 b with mstate := .awaitingStatus, mbuf := { s.mbuf with b2 := b } } := by
  rw [State.midiStep, State.resync_of_data hb, State.parse, hm]
  exact State.dispatch_comm (g := fun t => (t.setMbuf { s.mbuf with b2 := b }).setMState .awaitingStatus) rfl
    (fun _ => rfl) _ _ _

theorem exec_midiByte_of_empty {s : State} (hs : s.operand = .empty) (b : Byte) :
    exec (.midiByte b) s = .next ((s.midiStep b).respond .ok .empty) :=
  congrArg Host.Outcome.next (State.onEmpty_of_empty hs _)

/-- Settles O52: the equation of `State.midiStep` for each class of byte and each state of the parser. -/
theorem midiByteStateMachine : Obligations.MidiByteStateMachine := by
  refine ⟨encode_midiByte, fun b s hs => ⟨fun _ ha => ?_, fun hb ha => ?_, fun hb hm => ?_, fun hb hm => ?_,
    fun hb hm => ?_⟩⟩
  all_goals rw [exec_midiByte_of_empty hs]
  · rw [State.midiStep_of_accepted ((acceptsStatus_iff b).2 ha)]
    rfl
  · rw [State.midiStep_of_unaccepted hb (mt (acceptsStatus_iff b).1 ha)]
    rfl
  · rw [State.midiStep_data_awaitingStatus hb hm]
    rfl
  · rw [State.midiStep_data_awaitingData1 hb hm]
    rfl
  · rw [State.midiStep_data_awaitingData2 hb hm]
    rfl

/-! ## A poll (43_midi.md R257) -/

theorem length_srcAnswer_le (k : Nat) (r : SrcAgent) : (srcAnswer k r).1.length ≤ k := by
  rw [srcAnswer]
  split <;> exact List.length_take_le _ _

/-- A byte neither reads nor changes the ports. -/
theorem State.midiStep_respond (s : State) (st : Status) (p : ResultPayload) (b : Byte) :
    (s.respond st p).midiStep b = (s.midiStep b).respond st p := by
  obtain hb | hb := Nat.lt_or_ge b.toNat 128
  · cases hm : s.mstate with
    | awaitingStatus => rw [State.midiStep_data_awaitingStatus hb hm, State.midiStep_data_awaitingStatus hb (by exact hm)]
    | awaitingData1 =>
      rw [State.midiStep_data_awaitingData1 hb hm, State.midiStep_data_awaitingData1 hb (by exact hm)]
      rfl
    | awaitingData2 =>
      rw [State.midiStep_data_awaitingData2 hb hm, State.midiStep_data_awaitingData2 hb (by exact hm),
        State.dispatch_comm (g := (·.respond st p)) rfl (fun _ => rfl)]
      rfl
  · by_cases ha : acceptsStatus b = true
    · rw [State.midiStep_of_accepted ha, State.midiStep_of_accepted ha]
      rfl
    · rw [State.midiStep_of_unaccepted hb ha, State.midiStep_of_unaccepted hb ha]
      rfl

theorem State.midiSteps_respond (st : Status) (p : ResultPayload) (bs : List Byte) : ∀ s : State,
    bs.foldl State.midiStep (s.respond st p) = (bs.foldl State.midiStep s).respond st p := by
  induction bs with
  | nil => exact fun _ => rfl
  | cons b bs ih => exact fun s => by rw [List.foldl_cons, State.midiStep_respond, ih, List.foldl_cons]

/-- MIDI.BYTE commands run in order leave what the parser does with their bytes, but for the ports. -/
theorem foldl_exec_midiByte {f : Host.Outcome State Fault Refusal → Byte → Host.Outcome State Fault Refusal}
    (hf : ∀ x b, f (.next x) b = exec (.midiByte b) x) (bs : List Byte) : ∀ {s : State}, s.operand = .empty →
    ∃ u, bs.foldl f (.next s) = .next u ∧ ∀ st p, u.respond st p = (bs.foldl State.midiStep s).respond st p := by
  induction bs with
  | nil => exact fun {s} _ => ⟨s, rfl, fun _ _ => rfl⟩
  | cons b bs ih =>
    intro s hs
    obtain ⟨u, hu, hports⟩ := ih (s := (s.midiStep b).respond .ok .empty) rfl
    refine ⟨u, ?_, fun st p => ?_⟩
    · rw [List.foldl_cons, hf, exec_midiByte_of_empty hs, hu]
    · rw [hports, State.midiSteps_respond]
      rfl

/-- Settles O56: both sides run `State.midiStep` on every byte, by `foldl_exec_midiByte`. -/
theorem pollRunsMidiByteOnEachByte : Obligations.PollRunsMidiByteOnEachByte := by
  refine ⟨rfl, fun s hs => ⟨length_srcAnswer_le _ _, ?_⟩⟩
  refine (foldl_exec_midiByte ?_ (srcAnswer s.cfg.midiPollMax s.src).1
    (s := { s with src := (srcAnswer s.cfg.midiPollMax s.src).2 }) hs).imp fun u h => ⟨h.1, ?_⟩
  · exact fun _ _ => rfl
  · exact congrArg Host.Outcome.next ((State.onEmpty_of_empty hs _).trans (h.2 _ _).symm)

/-! ## What the byte path forwards (43_midi.md R258, R260) -/

/-- A call that the byte path may make. -/
def FromBytePath (c : SinkCall) : Prop :=
  c.count = 3 ∧ c.ts = 0 ∧ (c.type = 0x80 ∨ c.type = 0x90 ∨ c.type = 0xB0) ∧ c.d1.toNat < 128 ∧ c.d2.toNat < 128

/-- The history of `t` is that of `s` and what a byte path may append to it. -/
def State.ForwardsFromBytePath (s t : State) : Prop :=
  ∃ es, t.history = s.history ++ es ∧ ∀ c, Event.sink c ∈ es → FromBytePath c

theorem State.ForwardsFromBytePath.of_eq {s t : State} (h : t.history = s.history) : s.ForwardsFromBytePath t :=
  ⟨[], by rw [h, List.append_nil], fun _ hc => absurd hc List.not_mem_nil⟩

theorem State.ForwardsFromBytePath.trans {s t u : State} (hst : s.ForwardsFromBytePath t)
    (htu : t.ForwardsFromBytePath u) : s.ForwardsFromBytePath u := by
  obtain ⟨es, het, hes⟩ := hst
  obtain ⟨es', heu, hes'⟩ := htu
  refine ⟨es ++ es', by rw [heu, het, List.append_assoc], fun c hc => ?_⟩
  exact (List.mem_append.1 hc).elim (hes c) (hes' c)

/-- The part of the invariant that the parser reads. -/
structure State.ParserInv (s : State) : Prop where
  status : s.mstate ≠ .awaitingStatus → acceptsStatus s.mbuf.b0 = true
  data : s.mstate = .awaitingData2 → s.mbuf.b1.toNat < 128

theorem State.Inv.parserInv {s : State} (h : s.Inv) : s.ParserInv where
  status := h.status
  data hm := by
    have hbit := h.data hm
    rw [getLsbD_seven_eq, decide_eq_false_iff_not] at hbit
    exact Nat.not_le.1 hbit

/-- A message of an accepted status byte and data bytes is forwarded with three bytes. -/
theorem exists_sinkCallOf_of_accepted {st d1 d2 : Byte} (hst : acceptsStatus st = true) (h1 : d1.toNat < 128)
    (h2 : d2.toNat < 128) : ∃ c, sinkCallOf st d1 d2 = some c ∧ FromBytePath c := by
  rw [sinkCallOf_eq]
  dsimp only
  split
  · exact ⟨_, rfl, rfl, rfl, .inl rfl, h1, h2⟩
  · split
    · exact ⟨_, rfl, rfl, rfl, .inr (.inl rfl), h1, h2⟩
    · have hB : st.toNat / 16 = 0xB := by
        have := (acceptsStatus_iff st).1 hst
        omega
      rw [if_pos hB]
      exact ⟨_, rfl, rfl, rfl, .inr (.inr rfl), h1, h2⟩

theorem State.dispatch_forwards {st d1 d2 : Byte} (hst : acceptsStatus st = true) (h1 : d1.toNat < 128)
    (h2 : d2.toNat < 128) (s : State) : s.ForwardsFromBytePath (s.dispatch st d1 d2) := by
  cases h : s.cfg.dspBound with
  | false => exact .of_eq (by rw [State.dispatch_noDsp h])
  | true =>
    obtain ⟨c, hcall, hc⟩ := exists_sinkCallOf_of_accepted hst h1 h2
    rw [State.dispatch_of_dsp h, hcall]
    refine ⟨[.sink c], rfl, fun c' hc' => ?_⟩
    obtain rfl : c' = c := by simpa using hc'
    exact hc

/-- A status byte makes no call. -/
theorem State.historyAfterStatus_forwards {s t : State} {b : Byte} (h : t.history = s.historyAfterStatus b) :
    s.ForwardsFromBytePath t := by
  rw [State.historyAfterStatus] at h
  split at h
  · exact .of_eq h
  · exact ⟨[.desync b], h, fun c hc => by simp at hc⟩

/-- A byte keeps the parser's invariant, and calls the sink only for a message that the invariant describes. -/
theorem State.midiStep_forwards {s : State} (hs : s.ParserInv) (b : Byte) :
    (s.midiStep b).ParserInv ∧ s.ForwardsFromBytePath (s.midiStep b) := by
  obtain hb | hb := Nat.lt_or_ge b.toNat 128
  · cases hm : s.mstate with
    | awaitingStatus =>
      rw [State.midiStep_data_awaitingStatus hb hm]
      exact ⟨hs, .of_eq rfl⟩
    | awaitingData1 =>
      rw [State.midiStep_data_awaitingData1 hb hm]
      exact ⟨⟨fun _ => hs.status (by simp [hm]), fun _ => hb⟩, .of_eq rfl⟩
    | awaitingData2 =>
      rw [State.midiStep_data_awaitingData2 hb hm]
      exact ⟨⟨fun h => absurd rfl h, fun h => nomatch h⟩,
        State.dispatch_forwards (hs.status (by simp [hm])) (hs.data hm) hb s⟩
  · by_cases ha : acceptsStatus b = true
    · rw [State.midiStep_of_accepted ha]
      exact ⟨⟨fun _ => ha, fun h => nomatch h⟩, State.historyAfterStatus_forwards rfl⟩
    · rw [State.midiStep_of_unaccepted hb ha]
      exact ⟨⟨fun h => absurd rfl h, fun h => nomatch h⟩, State.historyAfterStatus_forwards rfl⟩

theorem State.midiSteps_forwards (bs : List Byte) : ∀ {s : State}, s.ParserInv →
    s.ForwardsFromBytePath (bs.foldl State.midiStep s) := by
  induction bs with
  | nil => exact fun _ => .of_eq rfl
  | cons b bs ih =>
    intro s hs
    obtain ⟨hinv, hstep⟩ := State.midiStep_forwards hs b
    exact hstep.trans (ih hinv)

/-- Settles O57: `State.midiStep_forwards` for one byte, `State.midiSteps_forwards` for a poll. -/
theorem bytePathForwardsThreeByteMessages : Obligations.BytePathForwardsThreeByteMessages := by
  rintro i s t b (rfl | rfl) hinv h
  all_goals
    cases h
    refine State.onEmpty_elim (P := s.ForwardsFromBytePath) (.of_eq rfl) ?_
  · exact (State.midiStep_forwards hinv.parserInv b).2
  · exact State.midiSteps_forwards _ (s := s.setSrc _) ⟨hinv.parserInv.status, hinv.parserInv.data⟩

end Sys2Proof.Machine

/-! SUPPORT. Outcomes (60_exceptions.md): where a command is `ILLEGAL_COMMAND` (R306), what CODEC.SET refuses before any
effect (R303, R304), that every command answers its issuer (R309), and which blocks run commands (R313). The obligations O8,
O9, O10 and O43. -/

namespace Sys2Proof.Machine

/-! ## Illegal commands -/

theorem step_of_undecodable {s : State} {c : Command} {rest : List Command} {e : DecodeError} (hlegal : s.cfg.legal = true)
    (hp : s.pending = c :: rest) (he : decode c.cw = .error e) : step s = .next (s.accept c.payload rest).illegal := by
  simp only [step, hlegal, if_true, State.fetch, hp, he]

theorem State.onWord_of_not_isWord {s : State} (h : s.operand.isWord = false) (f : Word → State) :
    s.onWord f = s.illegal := by
  unfold State.onWord
  cases hs : s.operand with
  | word w => simp [hs, Payload.isWord] at h
  | empty | block | channels | lenBlock => rfl

theorem State.onEmpty_of_not_isEmpty {s : State} (h : s.operand.isEmpty = false) (t : State) : s.onEmpty t = s.illegal := by
  unfold State.onEmpty
  cases hs : s.operand with
  | empty => simp [hs, Payload.isEmpty] at h
  | word | block | channels | lenBlock => rfl

theorem exec_cvtDeint_of_not_isBlock {s : State} (h : s.operand.isBlock s.cfg.n = false) :
    exec .cvtDeint s = .next s.illegal := by
  cases hs : s.operand with
  | block ws => exact exec_cvtDeint_of_length_ne hs (by simpa [hs, Payload.isBlock] using h)
  | empty | word | channels | lenBlock => simp only [exec, execCvtDeint, hs]

theorem exec_cvtInt_of_not_isChannels {s : State} (h : s.operand.isChannels s.cfg.frames = false) :
    exec .cvtInt s = .next s.illegal := by
  cases hs : s.operand with
  | channels l r =>
    exact exec_cvtInt_of_length_ne hs (not_and_or.1 (by simpa [hs, Payload.isChannels] using h))
  | empty | word | block | lenBlock => simp only [exec, execCvtInt, hs]

theorem exec_pipeRecv_of_not_isLenBlock {s : State} (h : s.operand.isLenBlock = false) :
    exec .pipeRecv s = .next s.illegal := by
  cases hs : s.operand with
  | lenBlock len ws =>
    have hlen : ws.length ≠ len.toNat := by simpa [hs, Payload.isLenBlock] using h
    simp only [exec, execPipeRecv, hs, if_neg hlen]
  | empty | word | block | channels => simp only [exec, execPipeRecv, hs]

/-- A payload of another shape than 30_encoding.md R98 gives the instruction is `ILLEGAL_COMMAND` (R97(d)). -/
theorem exec_of_not_wellFormed {i : Instr} {s : State} (h : i.wellFormed s.cfg s.operand = false) :
    exec i s = .next s.illegal := by
  cases i with
  | cvtDecLj | cvtDecLo24 | cvtEncLj | cvtEncLo24 | cvtTof | cvtFromf | pipeReq | codecSet =>
    exact congrArg Host.Outcome.next (State.onWord_of_not_isWord h _)
  | cvtDeint => exact exec_cvtDeint_of_not_isBlock h
  | cvtInt => exact exec_cvtInt_of_not_isChannels h
  | pipeRecv => exact exec_pipeRecv_of_not_isLenBlock h
  | codecProbe | codecEnjack | codecDisjack | codecInfo | midiByte | midiPacket | midiPoll =>
    exact congrArg Host.Outcome.next (State.onEmpty_of_not_isEmpty h _)

/-- Settles O8: both forms end in `State.illegal`, which is a response and nothing else. -/
theorem illegalCommandChangesNothing : Obligations.IllegalCommandChangesNothing :=
  ⟨fun _ _ _ _ => step_of_undecodable, fun _ _ => exec_of_not_wellFormed⟩

/-! ## What CODEC.SET refuses -/

theorem State.setControl_of_unsupported {c : Control} {j : Jack} {h : Channel} (hsup : (controlInfo c j h).1 = false)
    (v : Int) (s : State) : s.setControl c j h v = s.respond .unsupported (.flag false) := by
  simp [State.setControl, hsup]

theorem State.setControl_of_out_of_range {c : Control} {j : Jack} {h : Channel} {v : Int}
    (hsup : (controlInfo c j h).1 = true) (hv : v < (controlInfo c j h).2.1 ∨ (controlInfo c j h).2.2 < v) (s : State) :
    s.setControl c j h v = s.respond .rangeViolation (.flag false) := by
  simp [State.setControl, hsup, hv]

theorem encode_codecSet (c : Control) (j : Jack) (h : Channel) : encode (.codecSet c j h)
    = 0x24000000 ||| (c.code.setWidth 32 <<< 16) ||| (j.code.setWidth 32 <<< 8) ||| h.code.setWidth 32 := by
  cases c <;> cases j <;> cases h <;> rfl

/-- Settles O43: the two tests of `State.setControl` come before its arms, and each only responds. -/
theorem setRefusesBeforeAnyEffect : Obligations.SetRefusesBeforeAnyEffect := by
  refine ⟨encode_codecSet, fun c j h s v hs => ⟨fun hsup => ?_, fun hsup hv => ?_⟩⟩
  all_goals refine (exec_codecSet_of_word hs c j h).trans (congrArg Host.Outcome.next ?_)
  · exact State.setControl_of_unsupported hsup _ s
  · exact State.setControl_of_out_of_range hsup hv s

/-! ## Status and payload of a response (60_exceptions.md R300) -/

/-- The payload agrees with the status, in a block of `n` words: a boolean is true, and `framesWritten` is not 0, exactly
with `OK`. -/
structure Response.Agrees (n : Nat) (r : Response) : Prop where
  flag : ∀ ok, r.payload = .flag ok → (ok = true ↔ r.status = .ok)
  request : ∀ k b, r.payload = .request k b → n ≠ 0 → (k = 0 ↔ r.status ≠ .ok)

theorem Response.agrees_flag (n : Nat) {st : Status} {ok : Bool} (h : ok = true ↔ st = .ok) :
    Response.Agrees n ⟨st, .flag ok⟩ where
  flag _ e := ResultPayload.flag.inj e ▸ h
  request := nofun

theorem Response.agrees_request {n : Nat} {st : Status} {k : Word} {b : Option (List Word)}
    (h : n ≠ 0 → (k = 0 ↔ st ≠ .ok)) : Response.Agrees n ⟨st, .request k b⟩ where
  flag := nofun
  request _ _ e := (ResultPayload.request.inj e).1 ▸ h

/-- Every other payload agrees with every status. -/
theorem Response.agrees_of_ne (n : Nat) (st : Status) {p : ResultPayload} (hflag : ∀ ok, p ≠ .flag ok)
    (hrequest : ∀ k b, p ≠ .request k b) : Response.Agrees n ⟨st, p⟩ where
  flag ok e := absurd e (hflag ok)
  request k b e := absurd e (hrequest k b)

/-! ## Commands that answer -/

/-- `t` is `s` after a command that answered: an agreeing response on the port, the later commands still pending. -/
def State.Answered (s t : State) : Prop :=
  ∃ r, t.result = some r ∧ t.pending = s.pending ∧ r.Agrees s.cfg.n

theorem State.respond_answered {s t : State} {st : Status} {p : ResultPayload} (hp : t.pending = s.pending)
    (hr : Response.Agrees s.cfg.n ⟨st, p⟩) : s.Answered (t.respond st p) := ⟨_, rfl, hp, hr⟩

/-- A response whose payload is neither a boolean nor the answer to a request. -/
theorem State.respond_answered_of_ne {s t : State} {st : Status} {p : ResultPayload} (hp : t.pending = s.pending)
    (hflag : ∀ ok, p ≠ .flag ok) (hrequest : ∀ k b, p ≠ .request k b) : s.Answered (t.respond st p) :=
  State.respond_answered hp (Response.agrees_of_ne _ _ hflag hrequest)

theorem State.illegal_answered (s : State) : s.Answered s.illegal := State.respond_answered_of_ne rfl nofun nofun

theorem State.onWord_answered {s : State} {f : Word → State} (h : ∀ w, s.Answered (f w)) : s.Answered (s.onWord f) :=
  State.onWord_elim s.illegal_answered h

theorem State.onEmpty_answered {s t : State} (h : s.Answered t) : s.Answered (s.onEmpty t) :=
  State.onEmpty_elim s.illegal_answered h

/-! ## The converter -/

theorem execCvtDeint_answered (s : State) : ∃ t, execCvtDeint s = .next t ∧ s.Answered t := by
  refine ⟨_, rfl, ?_⟩
  split
  · split
    · exact State.respond_answered_of_ne rfl nofun nofun
    · exact s.illegal_answered
  all_goals exact s.illegal_answered

theorem execCvtInt_answered (s : State) : ∃ t, execCvtInt s = .next t ∧ s.Answered t := by
  refine ⟨_, rfl, ?_⟩
  split
  · split
    · exact State.respond_answered_of_ne rfl nofun nofun
    · exact s.illegal_answered
  all_goals exact s.illegal_answered

/-! ## The arbiter -/

@[simp] theorem State.checkOrder_pending (want : Phase) (s : State) : (s.checkOrder want).pending = s.pending := by
  rw [State.checkOrder_eq]

@[simp] theorem State.checkOrder_cfg (want : Phase) (s : State) : (s.checkOrder want).cfg = s.cfg := by
  rw [State.checkOrder_eq]

@[simp] theorem State.noteReads_pending (b : BufId) (n : Nat) (s : State) : (s.noteReads b n).pending = s.pending := by
  rw [State.noteReads_eq]

@[simp] theorem State.bufWriteAll_pending (b : BufId) (ws : List Word) (s : State) :
    (s.bufWriteAll b ws).pending = s.pending := rfl

@[simp] theorem State.process_pending (s : State) : s.process.pending = s.pending := by
  obtain ⟨f, d, h, lo, ro, -, -, e⟩ := s.process_spec
  rw [e]
  rfl

@[simp] theorem State.convertOut_pending (s : State) : s.convertOut.pending = s.pending := by simp [State.convertOut]

theorem State.recv_answered (len : Word) (ws : List Word) (s : State) : s.Answered (s.recv len ws) := by
  unfold State.recv
  dsimp only
  split
  all_goals exact State.respond_answered_of_ne (by simp) nofun nofun

/-- A number that is the value of a word is below `2^32`, so the word that stands for it is 0 only where it is 0. -/
theorem ofNat_eq_zero_iff_of_toNat {len : Word} {n : Nat} (h : len.toNat = n) : BitVec.ofNat 32 n = 0 ↔ n = 0 := by
  rw [← h, BitVec.ofNat_toNat, BitVec.setWidth_eq, ← BitVec.toNat_inj]
  rfl

theorem State.req_answered (len : Word) (s : State) : s.Answered (s.req len) := by
  unfold State.req
  dsimp only
  split
  case isTrue hlen =>
    refine State.respond_answered (by simp) (Response.agrees_request fun hn => ?_)
    have hframes : ¬ BitVec.ofNat 32 s.cfg.n = 0 := by rwa [ofNat_eq_zero_iff_of_toNat (by simpa using hlen)]
    simpa using hframes
  case isFalse =>
    exact State.respond_answered (by simp) (Response.agrees_request fun _ => by simp)

theorem execPipeRecv_answered (s : State) : ∃ t, execPipeRecv s = .next t ∧ s.Answered t := by
  refine ⟨_, rfl, ?_⟩
  split
  · split
    · exact State.recv_answered _ _ s
    · exact s.illegal_answered
  all_goals exact s.illegal_answered

/-! ## The sequencer -/

@[simp] theorem State.wrAll_pending (ws : List RegWrite) (s : State) : (s.wrAll ws).2.pending = s.pending := by
  rw [State.wrAll_eq]

@[simp] theorem State.updateVols_pending (cs : List Side) (f : Byte → Byte) (s : State) :
    (s.updateVols cs f).pending = s.pending := by
  rw [State.updateVols_eq]

/-- After its writes a command answers true exactly where they all were acknowledged. -/
theorem finishWrites_answered {s : State} {r : Bool × State} (hp : r.2.pending = s.pending) :
    s.Answered (finishWrites r) := by
  rw [finishWrites_eq]
  refine State.respond_answered hp (Response.agrees_flag _ ?_)
  cases r.1 <;> simp

theorem State.probe_answered (s : State) : s.Answered s.probe := by
  rw [State.probe_eq]
  refine State.respond_answered (by simp) (Response.agrees_flag _ ?_)
  cases (s.wrAll _).1 <;> cases (pllTable s.cfg).isSome <;> simp

theorem State.enableJack_answered (j : Jack) (s : State) : s.Answered (s.enableJack j) := by
  unfold State.enableJack
  split
  · exact finishWrites_answered rfl
  · exact State.respond_answered rfl (Response.agrees_flag _ (by simp))

theorem State.disableJack_answered (j : Jack) (s : State) : s.Answered (s.disableJack j) := by
  unfold State.disableJack
  split
  · exact finishWrites_answered rfl
  · exact State.respond_answered rfl (Response.agrees_flag _ (by simp))

theorem State.setAlc_answered (value : Int) (s : State) : s.Answered (s.setAlc value) := by
  unfold State.setAlc
  split
  all_goals exact finishWrites_answered (by simp)

theorem State.setControl_answered (c : Control) (j : Jack) (h : Channel) (v : Int) (s : State) :
    s.Answered (s.setControl c j h v) := by
  unfold State.setControl
  dsimp only
  split
  · exact State.respond_answered rfl (Response.agrees_flag _ (by simp))
  split
  · exact State.respond_answered rfl (Response.agrees_flag _ (by simp))
  split
  · exact finishWrites_answered (by simp)
  · exact finishWrites_answered (by simp)
  · exact finishWrites_answered (by simp)
  · exact State.setAlc_answered v s

/-! ## The parser -/

@[simp] theorem State.dispatch_pending (st d1 d2 : Byte) (s : State) : (s.dispatch st d1 d2).pending = s.pending := by
  obtain ⟨d, h, e⟩ := State.dispatch_frame st d1 d2 s
  rw [e]

@[simp] theorem State.midiStep_pending (s : State) (b : Byte) : (s.midiStep b).pending = s.pending := by
  obtain ⟨m, mb, d, h, e⟩ := s.midiStep_frame b
  rw [e]

@[simp] theorem State.midiSteps_pending (bs : List Byte) (s : State) :
    (bs.foldl State.midiStep s).pending = s.pending := by
  obtain ⟨m, mb, d, h, e⟩ := s.midiSteps_frame bs
  rw [e]

/-! ## Every command -/

/-- No outcome stops the block (R309): by family, each command ends in a response. -/
theorem exec_answered (i : Instr) (s : State) : ∃ t, exec i s = .next t ∧ s.Answered t := by
  cases i with
  | cvtDecLj | cvtDecLo24 | cvtEncLj | cvtEncLo24 | cvtTof | cvtFromf =>
    exact ⟨_, rfl, State.onWord_answered fun _ => State.respond_answered_of_ne rfl nofun nofun⟩
  | cvtDeint => exact execCvtDeint_answered s
  | cvtInt => exact execCvtInt_answered s
  | pipeRecv => exact execPipeRecv_answered s
  | pipeReq => exact ⟨_, rfl, State.onWord_answered fun len => State.req_answered len s⟩
  | codecProbe => exact ⟨_, rfl, State.onEmpty_answered s.probe_answered⟩
  | codecEnjack j => exact ⟨_, rfl, State.onEmpty_answered (State.enableJack_answered j s)⟩
  | codecDisjack j => exact ⟨_, rfl, State.onEmpty_answered (State.disableJack_answered j s)⟩
  | codecInfo c j h => exact ⟨_, rfl, State.onEmpty_answered (State.respond_answered_of_ne rfl nofun nofun)⟩
  | codecSet c j h => exact ⟨_, rfl, State.onWord_answered fun v => State.setControl_answered c j h v.toInt s⟩
  | midiByte b =>
    exact ⟨_, rfl, State.onEmpty_answered (State.respond_answered_of_ne (s.midiStep_pending b) nofun nofun)⟩
  | midiPacket p0 p1 p2 =>
    exact ⟨_, rfl, State.onEmpty_answered (State.respond_answered_of_ne (s.dispatch_pending p0 p1 p2) nofun nofun)⟩
  | midiPoll =>
    exact ⟨_, rfl, State.onEmpty_answered (State.respond_answered_of_ne (State.midiSteps_pending _ _) nofun nofun)⟩

/-- Settles O10: `exec_answered`, with the agreement of status and payload taken apart. -/
theorem everyCommandAnswersItsIssuer : Obligations.EveryCommandAnswersItsIssuer := by
  intro i s
  obtain ⟨t, ht, r, hr, hp, hflag, hrequest⟩ := exec_answered i s
  exact ⟨t, r, ht, hr, hp, hflag, hrequest⟩

/-! ## Blocks that run commands (10_state.md R33) -/

theorem legal_eq_false_iff (c : Config) :
    c.legal = false ↔ (c.hasInput = false ∧ c.hasOutput = false) ∨ c.n % 2 = 1 ∨ c.n = 0 := by
  simp only [Config.legal, Bool.and_eq_false_iff, Bool.or_eq_false_iff, beq_eq_false_iff_ne, bne_eq_false_iff_eq,
    Nat.mod_two_ne_zero, or_assoc]

theorem step_of_legal {s : State} (h : s.cfg.legal = true) : ∃ t, step s = .next t := by
  rw [step, if_pos h]
  cases s.fetch with
  | idle => exact ⟨s, rfl⟩
  | illegal t => exact ⟨t, rfl⟩
  | run i u =>
    obtain ⟨t, ht, -⟩ := exec_answered i u
    exact ⟨t, ht⟩

theorem step_of_not_legal {s : State} (h : s.cfg.legal = false) : step s = .refused .illegalConfiguration := by
  rw [step, h]
  rfl

/-- Settles O9: the refused configurations are those that are not `Config.legal`; in every other `exec_answered` gives the
step its next state. -/
theorem refusedConfigurationRunsNothing : Obligations.RefusedConfigurationRunsNothing := by
  intro s
  split
  case isTrue h => exact step_of_not_legal ((legal_eq_false_iff s.cfg).2 h)
  case isFalse h => exact step_of_legal (Bool.of_not_eq_false (mt (legal_eq_false_iff s.cfg).1 h))

end Sys2Proof.Machine

/-! SUPPORT. Construction and the constancy of the configuration (70_reset_and_hazards.md R340): what each operation,
each command and each step leaves of `State.cfg`. The obligation O11. -/

namespace Sys2Proof.Machine

/-! ## Shared operations keep the configuration -/

@[simp] theorem State.bufWriteAll_cfg (b : BufId) (ws : List Word) (s : State) : (s.bufWriteAll b ws).cfg = s.cfg := rfl

@[simp] theorem State.noteReads_cfg (b : BufId) (n : Nat) (s : State) : (s.noteReads b n).cfg = s.cfg := by
  rw [State.noteReads_eq]

theorem State.onWord_cfg {s : State} {f : Word → State} (h : ∀ w, (f w).cfg = s.cfg) : (s.onWord f).cfg = s.cfg :=
  State.onWord_elim (P := fun t => t.cfg = s.cfg) rfl h

theorem State.onEmpty_cfg {s t : State} (h : t.cfg = s.cfg) : (s.onEmpty t).cfg = s.cfg :=
  State.onEmpty_elim (P := fun u => u.cfg = s.cfg) rfl h

/-! ## The arbiter -/

@[simp] theorem State.process_cfg (s : State) : s.process.cfg = s.cfg := by
  obtain ⟨f, d, h, lo, ro, -, -, e⟩ := s.process_spec
  rw [e]
  rfl

@[simp] theorem State.convertOut_cfg (s : State) : s.convertOut.cfg = s.cfg := by simp [State.convertOut]

@[simp] theorem State.recvBlock_cfg (ws : List Word) (s : State) : (s.recvBlock ws).cfg = s.cfg := by
  simp [State.recvBlock]

@[simp] theorem State.reqBlock_cfg (s : State) : s.reqBlock.cfg = s.cfg := by simp [State.reqBlock]

/-- What PIPE.RECV does after its order check: it delivers the block, or drops it with a log entry (R151, R152). -/
theorem State.recv_cases (s : State) (len : Word) (ws : List Word) :
    (len.toNat = s.cfg.n ∧ s.recv len ws = ((s.checkOrder .awaitIn).setPhase .awaitOut).recvBlock ws) ∨
    (len.toNat ≠ s.cfg.n ∧ s.recv len ws =
      (((s.checkOrder .awaitIn).setPhase .awaitOut).emit (.sizeMismatch .IN len)).respond .sizeMismatch .empty) :=
  (em (len.toNat = s.cfg.n)).imp (fun h => ⟨h, if_pos h⟩) fun h => ⟨h, if_neg h⟩

/-- What PIPE.REQ does after its order check: it answers a block, or a mismatch with a log entry (R154, R155). -/
theorem State.req_cases (s : State) (len : Word) :
    (len.toNat = s.cfg.n ∧ s.req len = ((s.checkOrder .awaitOut).setPhase .awaitIn).reqBlock) ∨
    (len.toNat ≠ s.cfg.n ∧ s.req len =
      (((s.checkOrder .awaitOut).setPhase .awaitIn).emit (.sizeMismatch .OUT len)).respond .sizeMismatch
        (.request 0 none)) :=
  (em (len.toNat = s.cfg.n)).imp (fun h => ⟨h, if_pos h⟩) fun h => ⟨h, if_neg h⟩

@[simp] theorem State.recv_cfg (len : Word) (ws : List Word) (s : State) : (s.recv len ws).cfg = s.cfg := by
  obtain ⟨-, h⟩ | ⟨-, h⟩ := s.recv_cases len ws
  all_goals simp [h]

@[simp] theorem State.req_cfg (len : Word) (s : State) : (s.req len).cfg = s.cfg := by
  obtain ⟨-, h⟩ | ⟨-, h⟩ := s.req_cases len
  all_goals simp [h]

/-! ## The sequencer -/

@[simp] theorem State.probe_cfg (s : State) : s.probe.cfg = s.cfg := by
  obtain ⟨b, h, st, ok, e⟩ := s.probe_frame
  rw [e]

@[simp] theorem State.enableJack_cfg (j : Jack) (s : State) : (s.enableJack j).cfg = s.cfg := by
  obtain ⟨b, es, r, e⟩ := State.enableJack_frame j s
  rw [e]

@[simp] theorem State.disableJack_cfg (j : Jack) (s : State) : (s.disableJack j).cfg = s.cfg := by
  obtain ⟨b, es, r, e⟩ := State.disableJack_frame j s
  rw [e]

@[simp] theorem State.setControl_cfg (c : Control) (j : Jack) (h : Channel) (v : Int) (s : State) :
    (s.setControl c j h v).cfg = s.cfg := by
  obtain ⟨b, es, iv, r, e⟩ := State.setControl_frame c j h v s
  rw [e]

/-! ## The parser -/

@[simp] theorem State.dispatch_cfg (st d1 d2 : Byte) (s : State) : (s.dispatch st d1 d2).cfg = s.cfg := by
  obtain ⟨d, h, e⟩ := State.dispatch_frame st d1 d2 s
  rw [e]

@[simp] theorem State.midiStep_cfg (s : State) (b : Byte) : (s.midiStep b).cfg = s.cfg := by
  obtain ⟨m, mb, d, h, e⟩ := s.midiStep_frame b
  rw [e]

@[simp] theorem State.midiSteps_cfg (bs : List Byte) (s : State) : (bs.foldl State.midiStep s).cfg = s.cfg := by
  obtain ⟨m, mb, d, h, e⟩ := s.midiSteps_frame bs
  rw [e]

@[simp] theorem State.poll_cfg (s : State) : s.poll.cfg = s.cfg := State.midiSteps_cfg _ _

/-! ## One command, one step -/

/-- The configuration is read-only to every command (10_state.md R33). -/
theorem exec_cfg (i : Instr) {s t : State} (h : exec i s = .next t) : t.cfg = s.cfg := by
  cases i with
  | cvtDecLj | cvtDecLo24 | cvtEncLj | cvtEncLo24 | cvtTof | cvtFromf =>
    cases h
    exact State.onWord_cfg fun _ => rfl
  | cvtDeint | cvtInt =>
    cases h
    repeat' split
    all_goals rfl
  | pipeRecv =>
    cases h
    split
    · split
      · exact State.recv_cfg _ _ s
      · rfl
    all_goals rfl
  | pipeReq =>
    cases h
    exact State.onWord_cfg fun len => s.req_cfg len
  | codecProbe =>
    cases h
    exact State.onEmpty_cfg s.probe_cfg
  | codecEnjack j =>
    cases h
    exact State.onEmpty_cfg (State.enableJack_cfg j s)
  | codecDisjack j =>
    cases h
    exact State.onEmpty_cfg (State.disableJack_cfg j s)
  | codecInfo c j ch =>
    cases h
    exact State.onEmpty_cfg rfl
  | codecSet c j ch =>
    cases h
    exact State.onWord_cfg fun v => State.setControl_cfg c j ch v.toInt s
  | midiByte b =>
    cases h
    exact State.onEmpty_cfg (State.midiStep_cfg s b)
  | midiPacket p0 p1 p2 =>
    cases h
    exact State.onEmpty_cfg (State.dispatch_cfg p0 p1 p2 s)
  | midiPoll =>
    cases h
    exact State.onEmpty_cfg s.poll_cfg

theorem step_cfg {s t : State} (h : step s = .next t) : t.cfg = s.cfg := by
  obtain ⟨-, rfl⟩ | ⟨c, rest, -, ⟨e, -, rfl⟩ | ⟨i, -, hi⟩⟩ := step_next_cases h
  · rfl
  · rfl
  · exact exec_cfg (s := s.accept c.payload rest) i hi

/-! ## Construction -/

/-- A block just constructed has no element written (10_state.md R38). -/
theorem State.written_resetWith (c : Config) (b : BufId) (i : Nat) : (State.resetWith c).written b i = false := by
  cases b with
  | inSlot k | outSlot k => cases k <;> rfl
  | dspInL | dspInR | dspOutL | dspOutR => rfl

/-- Settles O11: the written marks are `State.written_resetWith`, the empty record is the first part of O14, the other
reset values are the fields of `State.resetWith`, and `step_cfg` keeps the configuration. -/
theorem resetValues : Obligations.ResetValues := by
  obtain ⟨hNoFault, -⟩ := faultsAreSticky
  exact ⟨fun c => ⟨rfl, rfl, State.written_resetWith c, rfl, rfl, rfl, rfl, hNoFault c⟩, fun _ _ => step_cfg⟩

end Sys2Proof.Machine

/-! SUPPORT. The order hazard (70_reset_and_hazards.md R342): the check at the head of a PIPE command is the only
operation that touches the order tracker's fault, and what follows it keeps `phase`. The obligation O33. -/

namespace Sys2Proof.Machine

/-! ## The order check -/

/-- The check records `ORDER_VIOLATION` exactly out of turn (60_exceptions.md R312). -/
theorem State.checkOrder_orderViolation_iff (want : Phase) (s : State) :
    faultHas .orderViolation (s.checkOrder want).faults = true ↔
      s.phase ≠ want ∨ faultHas .orderViolation s.faults = true := by
  rw [State.checkOrder_eq]
  by_cases hturn : s.phase = want
  · simp [hturn]
  · simp [hturn, faultHas_faultAdd]

/-! ## Buffer reads and writes leave the tracker alone -/

@[simp] theorem State.bufWriteAll_phase (b : BufId) (ws : List Word) (s : State) :
    (s.bufWriteAll b ws).phase = s.phase := rfl

@[simp] theorem State.noteReads_phase (b : BufId) (n : Nat) (s : State) : (s.noteReads b n).phase = s.phase := by
  rw [State.noteReads_eq]

/-- The only kind that a read records is `UNWRITTEN_READ` (60_exceptions.md R311). -/
@[simp] theorem State.noteReads_orderViolation (b : BufId) (n : Nat) (s : State) :
    faultHas .orderViolation (s.noteReads b n).faults = faultHas .orderViolation s.faults := by
  rw [State.noteReads_eq]
  dsimp only
  split
  · rfl
  · exact faultHas_faultAdd_eq .unwrittenRead .orderViolation s.faults

@[simp] theorem State.process_phase (s : State) : s.process.phase = s.phase := by
  obtain ⟨f, d, h, lo, ro, -, -, e⟩ := s.process_spec
  rw [e]
  rfl

@[simp] theorem State.process_orderViolation (s : State) :
    faultHas .orderViolation s.process.faults = faultHas .orderViolation s.faults := by
  unfold State.process
  split
  · simp [State.dspProcess]
  · simp [State.bypassCopy]

@[simp] theorem State.convertOut_phase (s : State) : s.convertOut.phase = s.phase := by simp [State.convertOut]

@[simp] theorem State.convertOut_orderViolation (s : State) :
    faultHas .orderViolation s.convertOut.faults = faultHas .orderViolation s.faults := by
  simp [State.convertOut]

@[simp] theorem State.recvBlock_phase (ws : List Word) (s : State) : (s.recvBlock ws).phase = s.phase := by
  simp [State.recvBlock]

@[simp] theorem State.recvBlock_orderViolation (ws : List Word) (s : State) :
    faultHas .orderViolation (s.recvBlock ws).faults = faultHas .orderViolation s.faults := by
  simp [State.recvBlock]

@[simp] theorem State.reqBlock_phase (s : State) : s.reqBlock.phase = s.phase := by simp [State.reqBlock]

@[simp] theorem State.reqBlock_orderViolation (s : State) :
    faultHas .orderViolation s.reqBlock.faults = faultHas .orderViolation s.faults := by
  simp [State.reqBlock]

/-! ## The PIPE commands -/

theorem State.recv_phase (len : Word) (ws : List Word) (s : State) : (s.recv len ws).phase = .awaitOut := by
  obtain ⟨-, h⟩ | ⟨-, h⟩ := s.recv_cases len ws
  all_goals simp [h]

/-- Past its order check PIPE.RECV records no `ORDER_VIOLATION`, delivered or dropped. -/
theorem State.recv_orderViolation (len : Word) (ws : List Word) (s : State) :
    faultHas .orderViolation (s.recv len ws).faults = faultHas .orderViolation (s.checkOrder .awaitIn).faults := by
  obtain ⟨-, h⟩ | ⟨-, h⟩ := s.recv_cases len ws
  all_goals simp [h]

theorem State.req_phase (len : Word) (s : State) : (s.req len).phase = .awaitIn := by
  obtain ⟨-, h⟩ | ⟨-, h⟩ := s.req_cases len
  all_goals simp [h]

/-- Past its order check PIPE.REQ records no `ORDER_VIOLATION`, answered with a block or without. -/
theorem State.req_orderViolation (len : Word) (s : State) :
    faultHas .orderViolation (s.req len).faults = faultHas .orderViolation (s.checkOrder .awaitOut).faults := by
  obtain ⟨-, h⟩ | ⟨-, h⟩ := s.req_cases len
  all_goals simp [h]

theorem Payload.exists_of_isWord {p : Payload} (h : p.isWord = true) : ∃ w, p = .word w := by
  cases p with
  | word w => exact ⟨w, rfl⟩
  | empty | block | channels | lenBlock => cases h

theorem Payload.exists_of_isLenBlock {p : Payload} (h : p.isLenBlock = true) :
    ∃ len ws, p = .lenBlock len ws ∧ ws.length = len.toNat := by
  cases p with
  | lenBlock len ws => exact ⟨len, ws, rfl, beq_iff_eq.1 h⟩
  | empty | word | block | channels => cases h

/-- Settles O33: a payload of its shape brings the command to `State.recv` or `State.req`, which set `phase` and leave
of `ORDER_VIOLATION` what the check recorded. -/
theorem pipeOrderIsTracked : Obligations.PipeOrderIsTracked := by
  refine fun s => ⟨fun hshape => ?_, fun hshape => ?_⟩
  · obtain ⟨len, ws, hs, hws⟩ := Payload.exists_of_isLenBlock hshape
    refine ⟨s.recv len ws, exec_pipeRecv_of_lenBlock hs hws, s.recv_phase len ws, ?_⟩
    rw [State.recv_orderViolation]
    exact s.checkOrder_orderViolation_iff .awaitIn
  · obtain ⟨len, hs⟩ := Payload.exists_of_isWord hshape
    refine ⟨s.req len, exec_pipeReq_of_word hs, s.req_phase len, ?_⟩
    rw [State.req_orderViolation]
    exact s.checkOrder_orderViolation_iff .awaitOut

end Sys2Proof.Machine

/-! SUPPORT. The command encoding (30_encoding.md R91 to R99, R101): a command word as its opcode and its fields, the
tables of field values in both directions, the bits that a format keeps, and the decoder against the encoder. The
obligations O1, O2, O3 and O6. -/

namespace Sys2Proof

/-! ## A word as its opcode and its fields -/

theorem opcodeField_append (op : Byte) (f : BitVec 24) : opcodeField (op ++ f) = op := BitVec.extractLsb'_append_eq_left

theorem fieldsField_append (op : Byte) (f : BitVec 24) : fieldsField (op ++ f) = f := BitVec.extractLsb'_append_eq_right

theorem opcodeField_append_fieldsField (cw : Word) : opcodeField cw ++ fieldsField cw = cw :=
  BitVec.extractLsb'_append_extractLsb' (w := 8)

theorem slice_append {op : Byte} {f : BitVec 24} {start len : Nat} (h : start + len ≤ 24) :
    (op ++ f).extractLsb' start len = f.extractLsb' start len := BitVec.extractLsb'_append_eq_of_add_le h

/-- Every field of a command word is a slice of its low 24 bits (R92). -/
theorem slice_fieldsField (cw : Word) {start len : Nat} (h : start + len ≤ 24) :
    (fieldsField cw).extractLsb' start len = cw.extractLsb' start len := by
  conv_rhs => rw [← opcodeField_append_fieldsField cw]
  exact (slice_append h).symm

theorem opcodeField_encode (i : Instr) : opcodeField (encode i) = i.opcode.code := opcodeField_append _ _

theorem fieldsField_encode (i : Instr) : fieldsField (encode i) = i.fields := fieldsField_append _ _

/-! ## The tables of field values -/

theorem Opcode.ofCode_eq_some_iff {b : Byte} {o : Opcode} : Opcode.ofCode b = some o ↔ o.code = b := by
  constructor
  · exact fun h => beq_iff_eq.1 (List.find?_some (p := fun o : Opcode => o.code == b) h)
  · rintro rfl
    cases o <;> rfl

theorem Control.ofCode_eq_some_iff {c : BitVec 2} {x : Control} : Control.ofCode c = some x ↔ x.code = c := by
  revert c; cases x <;> decide

theorem Jack.ofCode_eq_some_iff {c : BitVec 3} {x : Jack} : Jack.ofCode c = some x ↔ x.code = c := by
  revert c; cases x <;> decide

theorem Channel.ofCode_eq_some_iff {c : BitVec 2} {x : Channel} : Channel.ofCode c = some x ↔ x.code = c := by
  revert c; cases x <;> decide

theorem Control.ofCode_eq_none_iff {c : BitVec 2} : Control.ofCode c = none ↔ c.toNat = 3 := by revert c; decide

theorem Jack.ofCode_eq_none_iff {c : BitVec 3} : Jack.ofCode c = none ↔ 6 ≤ c.toNat := by revert c; decide

theorem Channel.ofCode_eq_none_iff {c : BitVec 2} : Channel.ofCode c = none ↔ c.toNat = 3 := by revert c; decide

/-! ## The bits outside the fields of a format (R99) -/

theorem and_not_eq_zero_iff (f m : BitVec 24) : f &&& ~~~m = 0 ↔ f &&& m = f := by
  constructor
  · intro h
    calc f &&& m = f &&& m ||| f &&& ~~~m := by rw [h]; exact BitVec.or_zero.symm
      _ = f := by rw [← BitVec.and_or_distrib_left, BitVec.or_not_self, BitVec.and_allOnes]
  · intro h
    rw [← h, BitVec.and_assoc, BitVec.and_not_self]
    exact BitVec.and_zero

/-- Format J keeps bits 10 to 8. -/
theorem and_fieldMask_J (f : BitVec 24) : f &&& Format.J.fieldMask = 0#13 ++ f.extractLsb' 8 3 ++ 0#8 := by
  have hf : f = f.extractLsb' 11 13 ++ f.extractLsb' 8 3 ++ f.extractLsb' 0 8 := by
    rw [BitVec.extractLsb'_append_extractLsb'_eq_extractLsb' (by rfl),
      BitVec.extractLsb'_append_extractLsb'_eq_extractLsb' (by rfl)]
    exact BitVec.extractLsb'_eq_self.symm
  conv_lhs => rw [hf]
  rw [show Format.J.fieldMask = 0#13 ++ BitVec.allOnes 3 ++ 0#8 from rfl, BitVec.and_append,
    BitVec.and_append, BitVec.and_zero, BitVec.and_zero, BitVec.and_allOnes]

/-- Format K keeps bits 17 and 16, 10 to 8, and 1 and 0. -/
theorem and_fieldMask_K (f : BitVec 24) :
    f &&& Format.K.fieldMask = 0#6 ++ f.extractLsb' 16 2 ++ 0#5 ++ f.extractLsb' 8 3 ++ 0#6 ++ f.extractLsb' 0 2 := by
  have hf : f = f.extractLsb' 18 6 ++ f.extractLsb' 16 2 ++ f.extractLsb' 11 5 ++ f.extractLsb' 8 3 ++ f.extractLsb' 2 6
      ++ f.extractLsb' 0 2 := by
    rw [BitVec.extractLsb'_append_extractLsb'_eq_extractLsb' (start₂ := 18) (by rfl),
      BitVec.extractLsb'_append_extractLsb'_eq_extractLsb' (start₁ := 11) (by rfl),
      BitVec.extractLsb'_append_extractLsb'_eq_extractLsb' (start₁ := 8) (by rfl),
      BitVec.extractLsb'_append_extractLsb'_eq_extractLsb' (start₁ := 2) (by rfl),
      BitVec.extractLsb'_append_extractLsb'_eq_extractLsb' (start₁ := 0) (by rfl)]
    exact BitVec.extractLsb'_eq_self.symm
  conv_lhs => rw [hf]
  rw [show Format.K.fieldMask = 0#6 ++ BitVec.allOnes 2 ++ 0#5 ++ BitVec.allOnes 3 ++ 0#6 ++ BitVec.allOnes 2 from rfl]
  iterate 5 rw [BitVec.and_append]
  simp only [BitVec.and_zero, BitVec.and_allOnes]

/-- Format B keeps the low byte. -/
theorem and_fieldMask_B (f : BitVec 24) : f &&& Format.B.fieldMask = 0#16 ++ f.extractLsb' 0 8 := by
  conv_lhs => rw [← BitVec.extractLsb'_append_extractLsb' (w := 16) (len := 8) (x := f)]
  rw [show Format.B.fieldMask = 0#16 ++ BitVec.allOnes 8 from rfl, BitVec.and_append, BitVec.and_zero, BitVec.and_allOnes]

theorem and_fieldMask_P (f : BitVec 24) : f &&& Format.P.fieldMask = f := BitVec.and_allOnes

theorem and_fieldMask_N (f : BitVec 24) : f &&& Format.N.fieldMask = 0 := BitVec.and_zero

/-! ## Encoding, then decoding -/

/-- The fields of an instruction set no bit outside those of its format (R92). -/
theorem fields_and_fieldMask (i : Instr) : i.fields &&& i.opcode.format.fieldMask = i.fields := by
  cases i with
  | cvtDecLj | cvtDecLo24 | cvtEncLj | cvtEncLo24 | cvtTof | cvtFromf | cvtDeint | cvtInt | pipeRecv | pipeReq | codecProbe
  | midiPoll => rfl
  | codecEnjack j | codecDisjack j => cases j <;> rfl
  | codecInfo c j h | codecSet c j h => cases c <;> cases j <;> cases h <;> rfl
  | midiByte b => exact (and_fieldMask_B _).trans (congrArg (0#16 ++ ·) BitVec.extractLsb'_append_eq_right)
  | midiPacket p0 p1 p2 => exact and_fieldMask_P _

/-- Each field of the command word reads back (R92, R99). -/
theorem decodeFields_encode (i : Instr) : decodeFields i.opcode (encode i) = .ok i := by
  cases i with
  | cvtDecLj | cvtDecLo24 | cvtEncLj | cvtEncLo24 | cvtTof | cvtFromf | cvtDeint | cvtInt | pipeRecv | pipeReq | codecProbe
  | midiPoll => rfl
  | codecEnjack j | codecDisjack j => cases j <;> rfl
  | codecInfo c j h | codecSet c j h => cases c <;> cases j <;> cases h <;> rfl
  | midiByte b =>
    have hlow : lowByteField (encode (.midiByte b)) = b :=
      (slice_append (by decide)).trans BitVec.extractLsb'_append_eq_right
    simp only [Instr.opcode, decodeFields, hlow]
  | midiPacket p0 p1 p2 =>
    have hhigh : highByteField (encode (.midiPacket p0 p1 p2)) = p0 := by
      refine (slice_append (by decide)).trans ?_
      rw [Instr.fields, BitVec.extractLsb'_append_eq_of_le (by decide)]
      exact BitVec.extractLsb'_append_eq_left
    have hmid : midByteField (encode (.midiPacket p0 p1 p2)) = p1 := by
      refine (slice_append (by decide)).trans ?_
      rw [Instr.fields, BitVec.extractLsb'_append_eq_of_le (by decide)]
      exact BitVec.extractLsb'_append_eq_right
    have hlow : lowByteField (encode (.midiPacket p0 p1 p2)) = p2 :=
      (slice_append (by decide)).trans BitVec.extractLsb'_append_eq_right
    simp only [Instr.opcode, decodeFields, hhigh, hmid, hlow]

/-- The decoder once the opcode is known: the reserved bits, then the fields. -/
theorem decode_of_ofCode {cw : Word} {o : Opcode} (h : Opcode.ofCode (opcodeField cw) = some o) :
    decode cw = if fieldsField cw &&& ~~~o.format.fieldMask = 0 then decodeFields o cw else .error .reservedBits := by
  rw [decode, h]

@[simp] theorem decode_encode (i : Instr) : decode (encode i) = .ok i := by
  have hop : Opcode.ofCode (opcodeField (encode i)) = some i.opcode :=
    Opcode.ofCode_eq_some_iff.2 (opcodeField_encode i).symm
  have hbits : fieldsField (encode i) &&& ~~~i.opcode.format.fieldMask = 0 := by
    rw [fieldsField_encode, and_not_eq_zero_iff, fields_and_fieldMask]
  rw [decode_of_ofCode hop, if_pos hbits, decodeFields_encode]

/-- Settles O1: the opcode is found, no reserved bit is set, and every field reads back. -/
theorem decodeReadsBackEveryEncoding : Obligations.DecodeReadsBackEveryEncoding := decode_encode

/-- Settles O6: every command of an expansion is an instruction's word, which `decode_encode` reads back. -/
theorem pseudoCommandsExpand : Obligations.PseudoCommandsExpand := by
  refine ⟨fun bs => ?_, fun j h => ?_, fun j h => ?_, fun j h dB => ?_, fun on => ?_⟩
  all_goals simp [Pseudo.expand, Instr.command]

/-! ## Decoding, then encoding -/

theorem decodeJ_eq_ok {cw : Word} {make : Jack → Instr} {i : Instr} (h : decodeJ cw make = .ok i) :
    ∃ j, j.code = jackField cw ∧ i = make j := by
  unfold decodeJ at h
  split at h
  next j hj => exact ⟨j, Jack.ofCode_eq_some_iff.1 hj, (Except.ok.inj h).symm⟩
  next => cases h

theorem decodeK_eq_ok {cw : Word} {make : Control → Jack → Channel → Instr} {i : Instr} (h : decodeK cw make = .ok i) :
    ∃ c j ch, c.code = controlField cw ∧ j.code = jackField cw ∧ ch.code = channelField cw ∧ i = make c j ch := by
  unfold decodeK at h
  split at h
  next => cases h
  next j hj =>
    split at h
    next => cases h
    next c hc =>
      split at h
      next => cases h
      next ch hch =>
        exact ⟨c, j, ch, Control.ofCode_eq_some_iff.1 hc, Jack.ofCode_eq_some_iff.1 hj, Channel.ofCode_eq_some_iff.1 hch,
          (Except.ok.inj h).symm⟩

/-- What the fields decode to has the opcode of the word, and the word's fields where no reserved bit is set. -/
theorem decodeFields_eq_ok {o : Opcode} {cw : Word} {i : Instr} (h : decodeFields o cw = .ok i) :
    i.opcode = o ∧ i.fields = fieldsField cw &&& o.format.fieldMask := by
  have hJ {j : Jack} (hj : j.code = jackField cw) :
      (0#13 ++ j.code ++ 0#8 : BitVec 24) = fieldsField cw &&& Format.J.fieldMask := by
    rw [and_fieldMask_J, slice_fieldsField cw (by decide), hj, jackField]
  have hK {c : Control} {j : Jack} {ch : Channel} (hc : c.code = controlField cw) (hj : j.code = jackField cw)
      (hch : ch.code = channelField cw) :
      (0#6 ++ c.code ++ 0#5 ++ j.code ++ 0#6 ++ ch.code : BitVec 24) = fieldsField cw &&& Format.K.fieldMask := by
    rw [and_fieldMask_K, slice_fieldsField cw (by decide), slice_fieldsField cw (by decide),
      slice_fieldsField cw (by decide), hc, hj, hch, controlField, jackField, channelField]
  cases o with
  | cvtDecLj | cvtDecLo24 | cvtEncLj | cvtEncLo24 | cvtTof | cvtFromf | cvtDeint | cvtInt | pipeRecv | pipeReq | codecProbe
  | midiPoll =>
    cases h
    exact ⟨rfl, (and_fieldMask_N _).symm⟩
  | codecEnjack | codecDisjack =>
    obtain ⟨j, hj, rfl⟩ := decodeJ_eq_ok h
    exact ⟨rfl, hJ hj⟩
  | codecInfo | codecSet =>
    obtain ⟨c, j, ch, hc, hj, hch, rfl⟩ := decodeK_eq_ok h
    exact ⟨rfl, hK hc hj hch⟩
  | midiByte =>
    cases h
    exact ⟨rfl, ((and_fieldMask_B _).trans (congrArg (0#16 ++ ·) (slice_fieldsField cw (by decide)))).symm⟩
  | midiPacket =>
    cases h
    refine ⟨rfl, Eq.trans ?_ (and_fieldMask_P _).symm⟩
    rw [Instr.fields, highByteField, midByteField, lowByteField,
      BitVec.extractLsb'_append_extractLsb'_eq_extractLsb' (by rfl),
      BitVec.extractLsb'_append_extractLsb'_eq_extractLsb' (by rfl)]
    rfl

theorem encode_of_decode {cw : Word} {i : Instr} (h : decode cw = .ok i) : encode i = cw := by
  cases hop : Opcode.ofCode (opcodeField cw) with
  | none => simp [decode, hop] at h
  | some o =>
    rw [decode_of_ofCode hop] at h
    split at h
    next hbits =>
      obtain ⟨rfl, hfields⟩ := decodeFields_eq_ok h
      rw [encode, Opcode.ofCode_eq_some_iff.1 hop, hfields, (and_not_eq_zero_iff _ _).1 hbits,
        opcodeField_append_fieldsField]
    next => cases h

/-- Settles O2: the opcode and the fields of the word are those of what it decodes to. -/
theorem decodedWordIsTheEncoding : Obligations.DecodedWordIsTheEncoding := fun _ _ => encode_of_decode

/-! ## What the decoder refuses (R97) -/

/-- An opcode number is reserved exactly where no row of R96 has it. -/
theorem Opcode.ofCode_eq_none_iff {b : Byte} :
    Opcode.ofCode b = none ↔ b.toNat ∉ Opcode.all.map fun o => o.code.toNat := by
  simp [Opcode.ofCode, BitVec.toNat_inj]

theorem decodeJ_refuses_iff {cw : Word} {make : Jack → Instr} :
    (∃ e, decodeJ cw make = .error e) ↔ 6 ≤ (jackField cw).toNat := by
  rw [← Jack.ofCode_eq_none_iff, decodeJ]
  cases Jack.ofCode (jackField cw) <;> simp

theorem decodeK_refuses_iff {cw : Word} {make : Control → Jack → Channel → Instr} :
    (∃ e, decodeK cw make = .error e) ↔
      6 ≤ (jackField cw).toNat ∨ (controlField cw).toNat = 3 ∨ (channelField cw).toNat = 3 := by
  rw [← Jack.ofCode_eq_none_iff, ← Control.ofCode_eq_none_iff, ← Channel.ofCode_eq_none_iff, decodeK]
  cases Jack.ofCode (jackField cw)
  · simp
  cases Control.ofCode (controlField cw)
  · simp
  cases Channel.ofCode (channelField cw) <;> simp

/-- A mask over the fields of a word as a mask over the word. -/
theorem fieldsField_and_eq_zero_iff (cw : Word) (m : BitVec 24) : fieldsField cw &&& m = 0 ↔ cw &&& (0#8 ++ m) = 0 := by
  conv_rhs => rw [← opcodeField_append_fieldsField cw, BitVec.and_append, BitVec.and_zero]
  constructor
  · intro h
    rw [h]
    rfl
  · intro h
    rw [← fieldsField_append 0#8 (fieldsField cw &&& m), h]
    rfl

/-- With a known opcode: a reserved bit, or a reserved field value. -/
theorem decode_refuses_iff {cw : Word} {o : Opcode} (h : Opcode.ofCode (opcodeField cw) = some o) :
    (∃ e, decode cw = .error e) ↔
      cw &&& (0#8 ++ ~~~o.format.fieldMask) ≠ 0 ∨ ∃ e, decodeFields o cw = .error e := by
  rw [decode_of_ofCode h, ne_eq, ← fieldsField_and_eq_zero_iff]
  by_cases hbits : fieldsField cw &&& ~~~o.format.fieldMask = 0
  · rw [if_pos hbits, or_iff_right (not_not_intro hbits)]
  · rw [if_neg hbits]
    exact iff_of_true ⟨_, rfl⟩ (.inl hbits)

theorem toNat_slice (cw : Word) (start len : Nat) : (cw.extractLsb' start len).toNat = cw.toNat / 2 ^ start % 2 ^ len := by
  rw [BitVec.extractLsb'_toNat, Nat.shiftRight_eq_div_pow]

theorem toNat_opcodeField (cw : Word) : (opcodeField cw).toNat = cw.toNat / 2 ^ 24 := by
  rw [opcodeField, toNat_slice]
  omega

/-- Settles O3: a word with a reserved opcode, else by the format of its opcode. -/
theorem decodeRefusesExactlyTheReserved : Obligations.DecodeRefusesExactlyTheReserved := by
  intro cw op jack control channel
  have hop : op = (opcodeField cw).toNat := (toNat_opcodeField cw).symm
  have hjack : jack = (jackField cw).toNat := (toNat_slice cw 8 3).symm
  have hcontrol : control = (controlField cw).toNat := (toNat_slice cw 16 2).symm
  have hchannel : channel = (channelField cw).toNat := by rw [channelField, toNat_slice, pow_zero, Nat.div_one]; rfl
  rw [hop, hjack, hcontrol, hchannel]
  cases ho : Opcode.ofCode (opcodeField cw) with
  | none => exact iff_of_true ⟨.reservedOpcode, by rw [decode, ho]⟩ (.inl (Opcode.ofCode_eq_none_iff.1 ho))
  | some o =>
    rw [decode_refuses_iff ho, ← Opcode.ofCode_eq_some_iff.1 ho]
    cases o with
    | cvtDecLj | cvtDecLo24 | cvtEncLj | cvtEncLo24 | cvtTof | cvtFromf | cvtDeint | cvtInt | pipeRecv | pipeReq
    | codecProbe | midiByte | midiPacket | midiPoll =>
      simp [Opcode.code, Opcode.format, Format.fieldMask, decodeFields]
    | codecEnjack | codecDisjack =>
      simp [Opcode.code, Opcode.format, Format.fieldMask, decodeFields, decodeJ_refuses_iff]
    | codecInfo | codecSet =>
      simp [Opcode.code, Opcode.format, Format.fieldMask, decodeFields, decodeK_refuses_iff]

end Sys2Proof

/-! SUPPORT. The frame of each family of commands: one inversion per family of what a command that answers can have changed,
with the finer clauses by command. The obligations O30, O51 and O58, and over every step O15, O16 and O17. -/

namespace Sys2Proof.Machine

/-! ## The four families -/

/-- The unit that a command is run by (30_encoding.md R96, the opcode groups 0x0n to 0x3n). -/
inductive Family where
  | converter
  | arbiter
  | sequencer
  | parser

/-- The family of an instruction. -/
def familyOf (i : Instr) : Family :=
  match i with
  | .cvtDecLj | .cvtDecLo24 | .cvtEncLj | .cvtEncLo24 | .cvtTof | .cvtFromf | .cvtDeint | .cvtInt => .converter
  | .pipeRecv | .pipeReq => .arbiter
  | .codecProbe | .codecEnjack _ | .codecDisjack _ | .codecInfo _ _ _ | .codecSet _ _ _ => .sequencer
  | .midiByte _ | .midiPacket _ _ _ | .midiPoll => .parser

/-- A command that leaves the storage leaves what every element reads as. -/
theorem State.reads_of_bufs_eq {s t : State} (h : t.bufs = s.bufs) (b : BufId) (j : Nat) :
    t.bufVal b j = s.bufVal b j ∧ t.written b j = s.written b j := by
  have hbuf : t.buf b = s.buf b := congrFun (State.buf_congr h) b
  exact ⟨congrFun (State.bufVal_congr hbuf) j, congrFun (State.written_congr hbuf) j⟩

/-! ## The converter -/

/-- What a CVT command can have changed (40_converter.md, "No CVT command reads or writes block state"). -/
structure ConverterFrame (i : Instr) (s t : State) : Prop where
  eq : ∃ r k, t = { s with operand := .empty, result := r, nanDraws := k }
  draws : i ≠ .cvtFromf → i ≠ .cvtInt → t.nanDraws = s.nanDraws

theorem exec_converterFrame {i : Instr} {s t : State} (hi : familyOf i = .converter) (h : exec i s = .next t) :
    ConverterFrame i s t := by
  have hRespond (st : Status) (p : ResultPayload) : ConverterFrame i s (s.respond st p) := ⟨⟨_, _, rfl⟩, fun _ _ => rfl⟩
  have hDraws {k : Nat} (st : Status) (p : ResultPayload) (hk : i = .cvtFromf ∨ i = .cvtInt) :
      ConverterFrame i s ((s.setDraws k).respond st p) :=
    ⟨⟨_, _, rfl⟩, fun hf hn => absurd hk (not_or.2 ⟨hf, hn⟩)⟩
  cases i with
  | cvtDecLj | cvtDecLo24 | cvtEncLj | cvtEncLo24 | cvtTof =>
    cases h
    exact State.onWord_elim (hRespond _ _) fun _ => hRespond _ _
  | cvtFromf =>
    cases h
    exact State.onWord_elim (hRespond _ _) fun _ => hDraws _ _ (.inl rfl)
  | cvtDeint =>
    cases h
    split
    · split
      · exact hRespond _ _
      · exact hRespond _ _
    all_goals exact hRespond _ _
  | cvtInt =>
    cases h
    split
    · split
      · exact hDraws _ _ (.inr rfl)
      · exact hRespond _ _
    all_goals exact hRespond _ _
  | _ => cases hi

/-- Settles O30: the frame of the family, and its storage unchanged. -/
theorem converterTouchesNoBlockState : Obligations.ConverterTouchesNoBlockState := by
  intro i s t hi h
  have hfamily : familyOf i = .converter := by
    simp only [List.mem_cons, List.not_mem_nil, or_false] at hi
    rcases hi with rfl | rfl | rfl | rfl | rfl | rfl | rfl | rfl <;> rfl
  obtain ⟨⟨r, k, rfl⟩, hdraws⟩ := exec_converterFrame hfamily h
  exact ⟨rfl, hdraws, State.reads_of_bufs_eq rfl⟩

/-! ## The sequencer -/

/-- What a CODEC command can have changed (42_codec_sequencer.md, 10_state.md R31, R41). -/
structure SequencerFrame (i : Instr) (s t : State) : Prop where
  eq : ∃ r b es p v, t = { s with
    operand := .empty, result := r, bus := b, history := s.history ++ es, seq := p, inputVolume := v }
  cache : (∀ c j h, i ≠ .codecSet c j h) → t.inputVolume = s.inputVolume
  position : t.seq = s.seq ∨ (i = .codecProbe ∧ t.seq = .idle)
  bus : t.bus ≠ s.bus →
    i = .codecProbe ∨ i = .codecEnjack .speaker ∨ i = .codecDisjack .speaker ∨ ∃ c j h, i = .codecSet c j h
  info : (∃ c j h, i = .codecInfo c j h) → t.bus = s.bus ∧ t.history = s.history

/-- A response without a write is inside the frame of every CODEC command. -/
theorem SequencerFrame.respond (i : Instr) (s : State) (st : Status) (p : ResultPayload) :
    SequencerFrame i s (s.respond st p) where
  eq := ⟨some ⟨st, p⟩, s.bus, [], s.seq, s.inputVolume, by simp [State.respond]⟩
  cache _ := rfl
  position := .inl rfl
  bus h := absurd rfl h
  info _ := ⟨rfl, rfl⟩

theorem State.probe_sequencerFrame (s : State) : SequencerFrame .codecProbe s s.probe := by
  rw [State.probe_eq, State.wrAll_eq]
  exact ⟨⟨_, _, _, _, _, rfl⟩, fun _ => rfl, .inr ⟨rfl, rfl⟩, fun _ => .inl rfl, fun ⟨_, _, _, h⟩ => nomatch h⟩

/-- A command that ends with one register write; only a jack command of Speaker does. -/
theorem finishWrites_wr_sequencerFrame {i : Instr} (hi : i = .codecEnjack .speaker ∨ i = .codecDisjack .speaker) (s : State)
    (a : RegAddr) (v : RegVal) : SequencerFrame i s (finishWrites (s.wr a v)) := by
  rw [finishWrites_wr]
  refine ⟨⟨_, _, _, s.seq, s.inputVolume, rfl⟩, fun _ => rfl, .inl rfl, fun _ => .inr ?_, ?_⟩
  · exact hi.elim .inl fun h => .inr (.inl h)
  · rintro ⟨c, j, h, rfl⟩
    exact hi.elim nofun nofun

theorem State.enableJack_sequencerFrame (j : Jack) (s : State) : SequencerFrame (.codecEnjack j) s (s.enableJack j) := by
  unfold State.enableJack
  split
  next hj => exact finishWrites_wr_sequencerFrame (.inl (congrArg _ hj)) s _ _
  next => exact .respond _ s _ _

theorem State.disableJack_sequencerFrame (j : Jack) (s : State) :
    SequencerFrame (.codecDisjack j) s (s.disableJack j) := by
  unfold State.disableJack
  split
  next hj => exact finishWrites_wr_sequencerFrame (.inr (congrArg _ hj)) s _ _
  next => exact .respond _ s _ _

theorem State.setControl_sequencerFrame (c : Control) (j : Jack) (h : Channel) (v : Int) (s : State) :
    SequencerFrame (.codecSet c j h) s (s.setControl c j h v) := by
  obtain ⟨b, es, iv, r, e⟩ := State.setControl_frame c j h v s
  rw [e]
  exact ⟨⟨_, _, _, s.seq, _, rfl⟩, fun hne => absurd rfl (hne c j h), .inl rfl,
    fun _ => .inr (.inr (.inr ⟨c, j, h, rfl⟩)), fun ⟨_, _, _, he⟩ => nomatch he⟩

theorem exec_sequencerFrame {i : Instr} {s t : State} (hi : familyOf i = .sequencer) (h : exec i s = .next t) :
    SequencerFrame i s t := by
  have hIllegal : SequencerFrame i s s.illegal := .respond i s _ _
  cases i with
  | codecProbe =>
    cases h
    exact State.onEmpty_elim hIllegal s.probe_sequencerFrame
  | codecEnjack j =>
    cases h
    exact State.onEmpty_elim hIllegal (State.enableJack_sequencerFrame j s)
  | codecDisjack j =>
    cases h
    exact State.onEmpty_elim hIllegal (State.disableJack_sequencerFrame j s)
  | codecInfo c j ch =>
    cases h
    exact State.onEmpty_elim hIllegal (.respond _ s _ _)
  | codecSet c j ch =>
    cases h
    exact State.onWord_elim hIllegal fun v => State.setControl_sequencerFrame c j ch v.toInt s
  | _ => cases hi

/-- Settles O51: the frame of the family, its clauses for the commands named, and its storage unchanged. -/
theorem sequencerFrame : Obligations.SequencerFrame := by
  intro i s t c j h hi hexec
  simp only [List.mem_cons, List.not_mem_nil, or_false] at hi
  have hfamily : familyOf i = .sequencer := by rcases hi with rfl | rfl | rfl | rfl | rfl <;> rfl
  have hset (hne : i ≠ .codecSet c j h) : ∀ c' j' h', i ≠ .codecSet c' j' h' := by
    rcases hi with rfl | rfl | rfl | rfl | rfl
    · exact nofun
    · exact nofun
    · exact nofun
    · exact nofun
    · exact absurd rfl hne
  obtain ⟨⟨r, b, es, p, v, rfl⟩, hcache, hposition, -, hinfo⟩ := exec_sequencerFrame hfamily hexec
  exact ⟨rfl, fun hne => hcache (hset hne), fun hne => hposition.resolve_right fun hp => hne hp.1,
    fun he => hinfo ⟨c, j, h, he⟩, State.reads_of_bufs_eq rfl⟩

/-! ## The parser -/

/-- What bytes and messages can have changed: with no DSP bound, no call is made (43_midi.md R259). -/
def State.ParsedTo (s t : State) : Prop :=
  ∃ m mb d es, t = { s with mstate := m, mbuf := mb, dspState := d, history := s.history ++ es } ∧
    (s.cfg.dspBound = false → d = s.dspState ∧ ∀ c, Event.sink c ∉ es)

theorem State.midiSteps_parsedTo (bs : List Byte) (s : State) : s.ParsedTo (bs.foldl State.midiStep s) := by
  cases hdsp : s.cfg.dspBound with
  | false =>
    obtain ⟨m, mb, es, e, hes⟩ := State.midiSteps_noDsp bs hdsp
    exact ⟨m, mb, s.dspState, es, e, fun _ => ⟨rfl, hes⟩⟩
  | true =>
    obtain ⟨m, mb, d, es, e⟩ := State.midiSteps_frame bs s
    exact ⟨m, mb, d, es, e, fun h => absurd (hdsp.symm.trans h) (by decide)⟩

theorem State.midiStep_parsedTo (s : State) (b : Byte) : s.ParsedTo (s.midiStep b) := State.midiSteps_parsedTo [b] s

/-- What a MIDI command can have changed (43_midi.md, 10_state.md R45). -/
structure ParserFrame (i : Instr) (s t : State) : Prop where
  eq : ∃ r m mb d es q, t = { s with
      operand := .empty, result := r, mstate := m, mbuf := mb, dspState := d, history := s.history ++ es, src := q } ∧
    (s.cfg.dspBound = false → d = s.dspState ∧ ∀ c, Event.sink c ∉ es)
  packet : (∃ p0 p1 p2, i = .midiPacket p0 p1 p2) → t.mstate = s.mstate ∧ t.mbuf = s.mbuf
  source : i ≠ .midiPoll → t.src = s.src

/-- A response alone is inside the frame of every MIDI command. -/
theorem ParserFrame.respond (i : Instr) (s : State) (st : Status) (p : ResultPayload) :
    ParserFrame i s (s.respond st p) where
  eq := ⟨some ⟨st, p⟩, s.mstate, s.mbuf, s.dspState, [], s.src, by simp [State.respond],
    fun _ => ⟨rfl, fun _ => List.not_mem_nil⟩⟩
  packet _ := ⟨rfl, rfl⟩
  source _ := rfl

theorem State.dispatch_parserFrame (p0 p1 p2 : Byte) (s : State) :
    ParserFrame (.midiPacket p0 p1 p2) s ((s.dispatch p0 p1 p2).respond .ok .empty) := by
  cases hdsp : s.cfg.dspBound with
  | false =>
    rw [State.dispatch_noDsp hdsp]
    exact .respond _ s _ _
  | true =>
    obtain ⟨d, es, e⟩ := State.dispatch_frame p0 p1 p2 s
    rw [e]
    exact ⟨⟨_, s.mstate, s.mbuf, d, es, s.src, rfl, fun h => absurd (hdsp.symm.trans h) (by decide)⟩,
      fun _ => ⟨rfl, rfl⟩, fun _ => rfl⟩

theorem exec_parserFrame {i : Instr} {s t : State} (hi : familyOf i = .parser) (h : exec i s = .next t) :
    ParserFrame i s t := by
  cases i with
  | midiByte b =>
    cases h
    obtain ⟨m, mb, d, es, e, hdsp⟩ := s.midiStep_parsedTo b
    rw [e]
    exact State.onEmpty_elim (.respond _ s _ _)
      ⟨⟨_, m, mb, d, es, s.src, rfl, hdsp⟩, (fun ⟨_, _, _, he⟩ => nomatch he), fun _ => rfl⟩
  | midiPacket p0 p1 p2 =>
    cases h
    exact State.onEmpty_elim (.respond _ s _ _) (State.dispatch_parserFrame p0 p1 p2 s)
  | midiPoll =>
    cases h
    obtain ⟨m, mb, d, es, e, hdsp⟩ := State.midiSteps_parsedTo (srcAnswer s.cfg.midiPollMax s.src).1
      (s.setSrc (srcAnswer s.cfg.midiPollMax s.src).2)
    refine State.onEmpty_elim (.respond _ s _ _) ?_
    rw [State.poll, e]
    exact ⟨⟨_, m, mb, d, es, _, rfl, hdsp⟩, (fun ⟨_, _, _, he⟩ => nomatch he), fun hne => absurd rfl hne⟩
  | _ => cases hi

/-- Settles O58: the frame of the family, with no DSP `State.midiSteps_noDsp`, and its storage unchanged. -/
theorem parserFrame : Obligations.ParserFrame := by
  intro i s t b p0 p1 p2 hi h
  have hfamily : familyOf i = .parser := by
    simp only [List.mem_cons, List.not_mem_nil, or_false] at hi
    rcases hi with rfl | rfl | rfl <;> rfl
  obtain ⟨⟨r, m, mb, d, es, q, rfl, hdsp⟩, hpacket, hsource⟩ := exec_parserFrame hfamily h
  exact ⟨rfl, fun he => hpacket ⟨p0, p1, p2, he⟩, hsource, fun hno => (hdsp hno).1, ⟨es, rfl, fun hno => (hdsp hno).2⟩,
    State.reads_of_bufs_eq rfl⟩

/-! ## The arbiter -/

theorem even_of_legal {c : Config} (h : c.legal = true) : c.n % 2 = 0 := by
  simp only [Config.legal, Bool.and_eq_true, beq_iff_eq] at h
  obtain ⟨⟨-, heven⟩, -⟩ := h
  exact heven

theorem legal_of_step {s t : State} (h : step s = .next t) : s.cfg.legal = true := by
  cases hl : s.cfg.legal with
  | true => rfl
  | false => cases (step_of_not_legal hl).symm.trans h

/-- What PIPE.RECV does on any payload: refuse its shape, drop a block of another length, or deliver it (R151, R152). -/
theorem exec_pipeRecv_cases {s t : State} (heven : s.cfg.n % 2 = 0) (h : exec .pipeRecv s = .next t) :
    t = s.illegal ∨
    (∃ len, t = { s with
      operand := .empty
      phase := .awaitOut
      faults := s.orderFaults .awaitIn
      history := s.history ++ [.sizeMismatch .IN len]
      result := some ⟨.sizeMismatch, .empty⟩ }) ∨
    ∃ ws, ws.length = s.cfg.n ∧ t = { s with
      operand := .empty
      phase := .awaitOut
      faults := s.orderFaults .awaitIn
      bufs := s.recvBufs ws
      result := some ⟨.ok, .empty⟩ } := by
  cases hshape : s.operand.isLenBlock with
  | false =>
    rw [exec_pipeRecv_of_not_isLenBlock hshape] at h
    exact .inl (Host.Outcome.next.inj h).symm
  | true =>
    obtain ⟨len, ws, hs, hws⟩ := Payload.exists_of_isLenBlock hshape
    rw [exec_pipeRecv_of_lenBlock hs hws] at h
    obtain rfl := Host.Outcome.next.inj h
    by_cases hlen : len.toNat = s.cfg.n
    · exact .inr (.inr ⟨ws, hws.trans hlen, State.recv_of_length heven (hws.trans hlen) hlen⟩)
    · exact .inr (.inl ⟨len, State.recv_of_length_ne hlen ws⟩)

/-- The payload of a request that produces a block (R154). -/
def State.RequestsBlock (s : State) : Prop := ∃ len, s.operand = .word len ∧ len.toNat = s.cfg.n

/-- What PIPE.REQ does on any payload: refuse its shape, produce nothing for another length, or produce a block (R154,
R155). -/
theorem exec_pipeReq_cases {s t : State} (heven : s.cfg.n % 2 = 0) (h : exec .pipeReq s = .next t) :
    (¬ s.RequestsBlock ∧ t = s.illegal) ∨
    (¬ s.RequestsBlock ∧ ∃ len, t = { s with
      operand := .empty
      phase := .awaitIn
      faults := s.orderFaults .awaitOut
      history := s.history ++ [.sizeMismatch .OUT len]
      result := some ⟨.sizeMismatch, .request 0 none⟩ }) ∨
    (s.RequestsBlock ∧ ∃ len, t = { s.processed with
      operand := .empty
      phase := .awaitIn
      activeIsA := !s.activeIsA
      faults := if s.inputsWritten then s.orderFaults .awaitOut else faultAdd .unwrittenRead (s.orderFaults .awaitOut)
      nanDraws := s.nanDraws + (s.outLeft.countP f32IsNan + s.outRight.countP f32IsNan)
      bufs := s.reqBufs
      result := some ⟨.ok, .request len (some s.outBlock)⟩ }) := by
  cases hshape : s.operand.isWord with
  | false =>
    rw [exec_of_not_wellFormed (i := .pipeReq) hshape] at h
    refine .inl ⟨?_, (Host.Outcome.next.inj h).symm⟩
    rintro ⟨len, hs, -⟩
    rw [hs] at hshape
    cases hshape
  | true =>
    obtain ⟨len, hs⟩ := Payload.exists_of_isWord hshape
    rw [exec_pipeReq_of_word hs] at h
    obtain rfl := Host.Outcome.next.inj h
    by_cases hlen : len.toNat = s.cfg.n
    · exact .inr (.inr ⟨⟨len, hs, hlen⟩, len, State.req_of_length heven hlen⟩)
    · refine .inr (.inl ⟨?_, len, State.req_of_length_ne hlen⟩)
      rintro ⟨len', hs', hlen'⟩
      rw [hs] at hs'
      exact hlen (Payload.word.inj hs' ▸ hlen')

/-- What a PIPE command can have changed (41_arbiter.md, 10_state.md R34 to R40). -/
structure ArbiterFrame (i : Instr) (s t : State) : Prop where
  eq : ∃ r a bs p d fs es k, t = { s with
    operand := .empty, result := r, activeIsA := a, bufs := bs, phase := p, dspState := d, faults := fs
    history := s.history ++ es, nanDraws := k }
  dsp : t.dspState ≠ s.dspState → s.cfg.dspBound = true ∧ i = .pipeReq
  selector : t.activeIsA ≠ s.activeIsA ↔ i = .pipeReq ∧ s.RequestsBlock

/-- A PIPE command that produces no block. -/
theorem ArbiterFrame.of_no_block {i : Instr} {s t : State} (hno : ¬ (i = .pipeReq ∧ s.RequestsBlock))
    (heq : ∃ r bs p fs es, t = { s with
      operand := .empty, result := r, bufs := bs, phase := p, faults := fs, history := s.history ++ es }) :
    ArbiterFrame i s t := by
  obtain ⟨r, bs, p, fs, es, rfl⟩ := heq
  exact ⟨⟨r, s.activeIsA, bs, p, s.dspState, fs, es, s.nanDraws, rfl⟩, fun h => absurd rfl h,
    iff_of_false (not_not_intro rfl) hno⟩

theorem ArbiterFrame.illegal {i : Instr} {s : State} (hno : ¬ (i = .pipeReq ∧ s.RequestsBlock)) :
    ArbiterFrame i s s.illegal :=
  .of_no_block hno ⟨some ⟨.illegalCommand, .empty⟩, s.bufs, s.phase, s.faults, [], by simp [State.illegal, State.respond]⟩

theorem State.processed_history (s : State) :
    s.processed.history = s.history ++ if s.cfg.dspBound then [.dspProcess] else [] := by
  rw [State.processed]
  dsimp only
  split
  · rfl
  · exact (List.append_nil _).symm

theorem exec_arbiterFrame {i : Instr} {s t : State} (heven : s.cfg.n % 2 = 0) (hi : familyOf i = .arbiter)
    (h : exec i s = .next t) : ArbiterFrame i s t := by
  cases i with
  | pipeRecv =>
    have hno : ¬ (Instr.pipeRecv = .pipeReq ∧ s.RequestsBlock) := nofun
    obtain rfl | ⟨len, rfl⟩ | ⟨ws, -, rfl⟩ := exec_pipeRecv_cases heven h
    · exact .illegal hno
    · exact .of_no_block hno ⟨_, s.bufs, _, _, _, rfl⟩
    · exact .of_no_block hno ⟨_, _, _, _, [], by rw [List.append_nil]⟩
  | pipeReq =>
    obtain ⟨hno, rfl⟩ | ⟨hno, len, rfl⟩ | ⟨hyes, len, rfl⟩ := exec_pipeReq_cases heven h
    · exact .illegal fun h => hno h.2
    · exact .of_no_block (fun h => hno h.2) ⟨_, s.bufs, _, _, _, rfl⟩
    · refine ⟨⟨_, _, _, _, _, _, _, _, by rw [← State.processed_history]; rfl⟩, fun hd => ⟨?_, rfl⟩, ?_⟩
      · exact Bool.of_not_eq_false fun hdsp => hd (by simp [State.processed, hdsp])
      · exact iff_of_true (Bool.not_ne_self _) ⟨rfl, hyes⟩
  | _ => cases hi

/-! ## Every command -/

/-- The calls that a command makes are appended to the history (70_reset_and_hazards.md R355). -/
theorem exec_history {i : Instr} {s t : State} (heven : s.cfg.n % 2 = 0) (h : exec i s = .next t) :
    ∃ es, t.history = s.history ++ es := by
  cases hi : familyOf i with
  | converter =>
    obtain ⟨⟨r, k, rfl⟩, -⟩ := exec_converterFrame hi h
    exact ⟨[], (List.append_nil _).symm⟩
  | arbiter =>
    obtain ⟨⟨r, a, bs, p, d, fs, es, k, rfl⟩, -, -⟩ := exec_arbiterFrame heven hi h
    exact ⟨es, rfl⟩
  | sequencer =>
    obtain ⟨⟨r, b, es, p, v, rfl⟩, -, -, -, -⟩ := exec_sequencerFrame hi h
    exact ⟨es, rfl⟩
  | parser =>
    obtain ⟨⟨r, m, mb, d, es, q, rfl, -⟩, -, -⟩ := exec_parserFrame hi h
    exact ⟨es, rfl⟩

/-- Settles O15: a step that runs no command makes no call, and a command appends those it makes. -/
theorem historyOnlyGrows : Obligations.HistoryOnlyGrows := by
  intro s t h
  have heven := even_of_legal (legal_of_step h)
  obtain ⟨-, rfl⟩ | ⟨c, rest, -, ⟨e, -, rfl⟩ | ⟨i, -, hi⟩⟩ := step_next_cases h
  · exact ⟨[], (List.append_nil _).symm⟩
  · exact ⟨[], (List.append_nil _).symm⟩
  · exact exec_history (s := s.accept c.payload rest) heven hi

/-- The selector moves with a block produced, and with nothing else (10_state.md R34). -/
theorem exec_selector {i : Instr} {s t : State} (heven : s.cfg.n % 2 = 0) (h : exec i s = .next t) :
    t.activeIsA ≠ s.activeIsA ↔ i = .pipeReq ∧ s.RequestsBlock := by
  have hother (ha : t.activeIsA = s.activeIsA) (hi : familyOf i ≠ .arbiter) :
      t.activeIsA ≠ s.activeIsA ↔ i = .pipeReq ∧ s.RequestsBlock := by
    refine iff_of_false (not_not_intro ha) ?_
    rintro ⟨rfl, -⟩
    exact hi rfl
  cases hi : familyOf i with
  | converter =>
    obtain ⟨⟨r, k, rfl⟩, -⟩ := exec_converterFrame hi h
    exact hother rfl (by simp [hi])
  | arbiter => exact (exec_arbiterFrame heven hi h).selector
  | sequencer =>
    obtain ⟨⟨r, b, es, p, v, rfl⟩, -, -, -, -⟩ := exec_sequencerFrame hi h
    exact hother rfl (by simp [hi])
  | parser =>
    obtain ⟨⟨r, m, mb, d, es, q, rfl, -⟩, -, -⟩ := exec_parserFrame hi h
    exact hother rfl (by simp [hi])

/-- Settles O16: `exec_selector`, for the command that the step takes. -/
theorem onlyASuccessfulRequestFlips : Obligations.OnlyASuccessfulRequestFlips := by
  intro s t h
  have heven := even_of_legal (legal_of_step h)
  obtain ⟨hp, rfl⟩ | ⟨c, rest, hp, ⟨e, he, rfl⟩ | ⟨i, hd, hi⟩⟩ := step_next_cases h
  · refine iff_of_false (not_not_intro rfl) ?_
    rintro ⟨c, rest, len, hp', -⟩
    cases hp.symm.trans hp'
  · refine iff_of_false (not_not_intro rfl) ?_
    rintro ⟨c', rest', len, hp', hd, -⟩
    cases hp.symm.trans hp'
    cases he.symm.trans hd
  · refine (exec_selector (s := s.accept c.payload rest) heven hi).trans ?_
    constructor
    · rintro ⟨rfl, len, hlen⟩
      exact ⟨c, rest, len, hp, hd, hlen⟩
    · rintro ⟨c', rest', len, hp', hd', hlen⟩
      cases hp.symm.trans hp'
      cases hd.symm.trans hd'
      exact ⟨rfl, len, hlen⟩

/-- Which command can have changed which unit's state (60_exceptions.md R325). -/
structure OwnState (i : Instr) (s t : State) : Prop where
  arbiter : t.bufs ≠ s.bufs ∨ t.phase ≠ s.phase ∨ t.faults ≠ s.faults → i = .pipeRecv ∨ i = .pipeReq
  cache : t.inputVolume ≠ s.inputVolume → ∃ c j h, i = .codecSet c j h
  bus : t.bus ≠ s.bus →
    i = .codecProbe ∨ i = .codecEnjack .speaker ∨ i = .codecDisjack .speaker ∨ ∃ c j h, i = .codecSet c j h
  parser : t.mstate ≠ s.mstate ∨ t.mbuf ≠ s.mbuf → (∃ b, i = .midiByte b) ∨ i = .midiPoll
  source : t.src ≠ s.src → i = .midiPoll
  dsp : t.dspState ≠ s.dspState → s.cfg.dspBound = true ∧
    (i = .pipeReq ∨ (∃ b, i = .midiByte b) ∨ (∃ p0 p1 p2, i = .midiPacket p0 p1 p2) ∨ i = .midiPoll)

theorem exec_ownState {i : Instr} {s t : State} (heven : s.cfg.n % 2 = 0) (h : exec i s = .next t) : OwnState i s t := by
  cases hi : familyOf i with
  | converter =>
    obtain ⟨⟨r, k, rfl⟩, -⟩ := exec_converterFrame hi h
    constructor <;> simp
  | arbiter =>
    obtain ⟨⟨r, a, bs, p, d, fs, es, k, rfl⟩, hdsp, -⟩ := exec_arbiterFrame heven hi h
    have hpipe : i = .pipeRecv ∨ i = .pipeReq := by
      cases i with
      | pipeRecv => exact .inl rfl
      | pipeReq => exact .inr rfl
      | _ => cases hi
    exact ⟨fun _ => hpipe, fun h => absurd rfl h, fun h => absurd rfl h, by simp, fun h => absurd rfl h,
      fun h => (hdsp h).imp_right .inl⟩
  | sequencer =>
    obtain ⟨⟨r, b, es, p, v, rfl⟩, hcache, -, hbus, -⟩ := exec_sequencerFrame hi h
    refine ⟨by simp, fun h => ?_, hbus, by simp, fun h => absurd rfl h, fun h => absurd rfl h⟩
    by_contra hno
    exact h (hcache fun c j h he => hno ⟨c, j, h, he⟩)
  | parser =>
    obtain ⟨⟨r, m, mb, d, es, q, rfl, hdsp⟩, hpacket, hsource⟩ := exec_parserFrame hi h
    have hmidi : (∃ b, i = .midiByte b) ∨ (∃ p0 p1 p2, i = .midiPacket p0 p1 p2) ∨ i = .midiPoll := by
      cases i with
      | midiByte b => exact .inl ⟨b, rfl⟩
      | midiPacket p0 p1 p2 => exact .inr (.inl ⟨p0, p1, p2, rfl⟩)
      | midiPoll => exact .inr (.inr rfl)
      | _ => cases hi
    refine ⟨by simp, fun h => absurd rfl h, fun h => absurd rfl h, fun h => ?_,
      not_imp_comm.1 hsource, fun h => ⟨?_, .inr hmidi⟩⟩
    · refine hmidi.imp_right fun h' => h'.resolve_left fun hp => ?_
      exact h.elim (absurd (hpacket hp).1) (absurd (hpacket hp).2)
    · exact Bool.of_not_eq_false fun hno => h (hdsp hno).1

/-- Settles O17: with no command run nothing changes; a command changes what `exec_ownState` leaves it. -/
theorem eachUnitChangesOnlyItsOwnState : Obligations.EachUnitChangesOnlyItsOwnState := by
  intro s t h taken
  have heven := even_of_legal (legal_of_step h)
  obtain ⟨hp, rfl⟩ | ⟨c, rest, hp, ⟨e, he, rfl⟩ | ⟨i, hd, hi⟩⟩ := step_next_cases h
  · simp
  · simp [State.illegal]
  · have htaken {P : Instr → Prop} (h : P i) : taken P := ⟨c, rest, i, hp, hd, h⟩
    obtain ⟨harbiter, hcache, hbus, hparser, hsource, hdsp⟩ := exec_ownState (s := s.accept c.payload rest) heven hi
    exact ⟨fun h => htaken (harbiter h), fun h => htaken (hcache h), fun h => htaken (hbus h),
      fun h => htaken (hparser h), fun h => htaken (hsource h), fun h => (hdsp h).imp_right htaken⟩

end Sys2Proof.Machine

/-! SUPPORT. The invariant of the block between commands (`State.Inv`): what each unit's operations keep of its part of
it, and the step that runs a decoded command. The obligations O7, O12 and O13. -/

namespace Sys2Proof.Machine

/-! ## The storage (20_memory.md R71, 40_converter.md R122) -/

theorem Buffers.wf_writeAll {c : Config} {bs : Buffers} {b : BufId} {ws : List Word} (hlen : ws.length ≤ bufLength c b)
    (h : bs.wf c = true) : (bs.writeAll b ws).wf c = true :=
  Buffers.wf_set (Buffer.wf_writeFrom ws (by rwa [Nat.zero_add]) ((Buffers.wf_iff c bs).1 h b)) h

theorem nanFree_writeFrom {b : Buffer} {xs : List F32} (hb : nanFree b = true) (hxs : ∀ x ∈ xs, f32IsNan x = false)
    (i : Nat) : nanFree (Buffer.writeFrom b i xs) = true := by
  simp only [nanFree, List.all_eq_true, Bool.not_eq_true'] at hb ⊢
  intro e he
  obtain ⟨-, -, -, -, hmem⟩ | hmem := Buffer.mem_writeFrom he
  · exact hxs e.2 hmem
  · exact hb e hmem

theorem not_nan_of_mem_deinterleave {f p : Nat} {ws : List Word} {x : F32} (h : x ∈ deinterleave f p ws) :
    f32IsNan x = false := by
  obtain ⟨w, rfl⟩ := mem_deinterleave h
  exact f32IsNan_toFloat _

/-- The part of the invariant that speaks of the storage. -/
structure StorageOk (c : Config) (bs : Buffers) : Prop where
  wf : bs.wf c = true
  noNan : nanFree bs.dspInL = true ∧ nanFree bs.dspInR = true

/-- A delivered block keeps the storage: its samples convert to no NaN. -/
theorem State.recvBufs_storageOk {s : State} {ws : List Word} (hws : ws.length = s.cfg.n) (h : StorageOk s.cfg s.bufs) :
    StorageOk s.cfg (s.recvBufs ws) where
  wf := Buffers.wf_writeAll (length_deinterleave _ _ _).le <| Buffers.wf_writeAll (length_deinterleave _ _ _).le <|
    Buffers.wf_writeAll hws.le h.wf
  noNan := by
    obtain ⟨-, hleft, hright, -⟩ := s.get_recvBufs ws
    constructor
    · exact (congrArg nanFree hleft).trans (nanFree_writeFrom h.noNan.1 (fun _ => not_nan_of_mem_deinterleave) 0)
    · exact (congrArg nanFree hright).trans (nanFree_writeFrom h.noNan.2 (fun _ => not_nan_of_mem_deinterleave) 0)

/-- A produced block keeps the storage: it writes no input buffer. -/
theorem State.reqBufs_storageOk {s : State} (heven : s.cfg.n % 2 = 0) (h : StorageOk s.cfg s.bufs) :
    StorageOk s.cfg s.reqBufs where
  wf := Buffers.wf_writeAll (State.length_outBlock heven).le <| Buffers.wf_writeAll s.length_outRight.le <|
    Buffers.wf_writeAll s.length_outLeft.le h.wf
  noNan := by
    obtain ⟨-, -, -, hother⟩ := s.get_reqBufs
    constructor
    · exact (congrArg nanFree (hother .dspInL nofun nofun nofun)).trans h.noNan.1
    · exact (congrArg nanFree (hother .dspInR nofun nofun nofun)).trans h.noNan.2

theorem exec_arbiter_storageOk {i : Instr} {s t : State} (heven : s.cfg.n % 2 = 0) (hi : familyOf i = .arbiter)
    (h : exec i s = .next t) (hs : StorageOk s.cfg s.bufs) : StorageOk s.cfg t.bufs := by
  cases i with
  | pipeRecv =>
    obtain rfl | ⟨len, rfl⟩ | ⟨ws, hws, rfl⟩ := exec_pipeRecv_cases heven h
    · exact hs
    · exact hs
    · exact State.recvBufs_storageOk hws hs
  | pipeReq =>
    obtain ⟨-, rfl⟩ | ⟨-, len, rfl⟩ | ⟨-, len, rfl⟩ := exec_pipeReq_cases heven h
    · exact hs
    · exact hs
    · exact State.reqBufs_storageOk heven hs
  | _ => cases hi

/-! ## The volume cache (10_state.md R41) -/

/-- Bit 6 zero and a magnitude of at most 62, as one bound on the low seven bits. -/
theorem volumeByteOk_iff (v : Byte) : volumeByteOk v = true ↔ v.toNat % 128 ≤ 62 := by
  have hbit : v.getLsbD 6 = decide (v.toNat / 2 ^ 6 % 2 = 1) := Nat.testBit_eq_decide_div_mod_eq
  have hmag : (v &&& 0x3F).toNat = v.toNat % 64 := (BitVec.toNat_and v 0x3F).trans (Nat.and_two_pow_sub_one_eq_mod _ 6)
  simp only [volumeByteOk, hbit, hmag, Bool.and_eq_true, Bool.not_eq_true', decide_eq_false_iff_not, decide_eq_true_eq]
  omega

/-- Bit 7 has no part in the low seven bits. -/
theorem toNat_or_mod_of_high {a : Byte} (ha : a.toNat % 2 ^ 7 = 0) (b : Byte) : (a ||| b).toNat % 128 = b.toNat % 128 := by
  rw [BitVec.toNat_or, show 128 = 2 ^ 7 from rfl, Nat.or_mod_two_pow, ha, Nat.zero_or]

theorem toNat_muteBit_mod (b : Byte) : (b &&& 0x80).toNat % 2 ^ 7 = 0 := by
  rw [BitVec.toNat_and, Nat.and_mod_two_pow]
  exact Nat.and_zero _

theorem volumeByteOk_volumeByte {dB : Int} (hlow : -17 ≤ dB) (hhigh : dB ≤ 30) (b : Byte) :
    volumeByteOk (volumeByte dB b) = true := by
  have hcode := toNat_inputCode hlow hhigh
  rw [volumeByteOk_iff, volumeByte, toNat_or_mod_of_high (toNat_muteBit_mod b)]
  exact (Nat.mod_le _ _).trans (by omega)

theorem volumeByteOk_muteByte (value : Int) {b : Byte} (hb : volumeByteOk b = true) :
    volumeByteOk (muteByte value b) = true := by
  have hlow : (b &&& 0x7F).toNat = b.toNat % 128 := (BitVec.toNat_and b 0x7F).trans (Nat.and_two_pow_sub_one_eq_mod _ 7)
  have hhigh : (BitVec.ofInt 8 value <<< 7).toNat % 2 ^ 7 = 0 := by
    rw [BitVec.toNat_shiftLeft, Nat.shiftLeft_eq]
    omega
  rw [volumeByteOk_iff] at hb ⊢
  rw [muteByte, BitVec.or_comm, toNat_or_mod_of_high hhigh]
  exact (congrArg (· % 128) hlow).trans_le (by omega)

/-- The byte that ALC puts in the place of the right channel's (R236). -/
theorem volumeByteOk_alcByte (right : Byte) {left : Byte} (hl : volumeByteOk left = true) :
    volumeByteOk ((right &&& 0x80) ||| (left &&& 0x3F)) = true := by
  have hmag : (left &&& 0x3F).toNat = left.toNat % 64 :=
    (BitVec.toNat_and left 0x3F).trans (Nat.and_two_pow_sub_one_eq_mod _ 6)
  rw [volumeByteOk_iff] at hl ⊢
  rw [toNat_or_mod_of_high (toNat_muteBit_mod right), hmag]
  omega

/-- The part of the invariant that speaks of the cache. -/
def CacheOk (p : PerSide Byte) : Prop := ∀ c, volumeByteOk (sideOf p c) = true

theorem CacheOk.updatedCache {p : PerSide Byte} (hp : CacheOk p) (h : Channel) {f : Byte → Byte}
    (hf : ∀ b, volumeByteOk b = true → volumeByteOk (f b) = true) : CacheOk (updatedCache h f p) := by
  intro c
  rw [sideOf_updatedCache]
  split
  · exact hf _ (hp c)
  · exact hp c

theorem State.setAlc_cacheOk {s : State} (hs : CacheOk s.inputVolume) (value : Int) :
    CacheOk (s.setAlc value).inputVolume := by
  unfold State.setAlc
  split
  · dsimp only
    rw [finishWrites_wrAll]
    rintro (_ | _)
    · exact hs .left
    · exact volumeByteOk_alcByte _ (hs .left)
  · rw [finishWrites_wrAll]
    exact hs

theorem State.setControl_cacheOk {s : State} (hs : CacheOk s.inputVolume) (c : Control) (j : Jack) (h : Channel) (v : Int) :
    CacheOk (s.setControl c j h v).inputVolume := by
  unfold State.setControl
  dsimp only
  split
  · exact hs
  split
  · exact hs
  next hrange =>
  split
  next hj _ =>
    obtain ⟨hlow, hhigh⟩ : -17 ≤ v ∧ v ≤ 30 := by simpa [controlInfo, hj] using hrange
    rw [State.setInputVolume_eq, finishWrites_wrAll]
    exact hs.updatedCache h fun b _ => volumeByteOk_volumeByte hlow hhigh b
  next =>
    rw [State.setOutputVolume, finishWrites_wrAll]
    exact hs
  next =>
    rw [State.setMute_eq, finishWrites_wrAll]
    exact hs.updatedCache h fun _ => volumeByteOk_muteByte v
  next => exact State.setAlc_cacheOk hs v

theorem exec_sequencer_cacheOk {i : Instr} {s t : State} (hi : familyOf i = .sequencer) (h : exec i s = .next t)
    (hs : CacheOk s.inputVolume) : CacheOk t.inputVolume := by
  by_cases hset : ∃ c j h, i = .codecSet c j h
  · obtain ⟨c, j, ch, rfl⟩ := hset
    cases h
    exact State.onWord_elim (P := fun u => CacheOk u.inputVolume) hs fun v => State.setControl_cacheOk hs c j ch v.toInt
  · rwa [(exec_sequencerFrame hi h).cache fun c j ch he => hset ⟨c, j, ch, he⟩]

/-! ## The parser (43_midi.md R251, R252) -/

theorem State.midiSteps_parserInv (bs : List Byte) : ∀ {s : State}, s.ParserInv →
    (bs.foldl State.midiStep s).ParserInv := by
  induction bs with
  | nil => exact id
  | cons b bs ih => exact fun hs => ih (State.midiStep_forwards hs b).1

/-- The parser's part of the invariant, in the form of `State.Inv`. -/
theorem State.ParserInv.data_bit {s : State} (h : s.ParserInv) (hm : s.mstate = .awaitingData2) :
    s.mbuf.b1.getLsbD 7 = false := by
  rw [getLsbD_seven_eq, decide_eq_false (Nat.not_le.2 (h.data hm))]

theorem exec_parser_parserInv {i : Instr} {s t : State} (hi : familyOf i = .parser) (h : exec i s = .next t)
    (hs : s.ParserInv) : t.ParserInv := by
  have hIllegal : s.illegal.ParserInv := ⟨hs.status, hs.data⟩
  cases i with
  | midiByte b =>
    cases h
    obtain ⟨hstatus, hdata⟩ := (State.midiStep_forwards hs b).1
    exact State.onEmpty_elim hIllegal ⟨hstatus, hdata⟩
  | midiPacket p0 p1 p2 =>
    obtain ⟨hm, hb⟩ := (exec_parserFrame hi h).packet ⟨p0, p1, p2, rfl⟩
    exact ⟨by rw [hm, hb]; exact hs.status, by rw [hm, hb]; exact hs.data⟩
  | midiPoll =>
    cases h
    obtain ⟨hstatus, hdata⟩ := State.midiSteps_parserInv (srcAnswer s.cfg.midiPollMax s.src).1
      (s := s.setSrc (srcAnswer s.cfg.midiPollMax s.src).2) ⟨hs.status, hs.data⟩
    exact State.onEmpty_elim hIllegal ⟨hstatus, hdata⟩
  | _ => cases hi

/-! ## Every step -/

theorem State.Inv.storageOk {s : State} (h : s.Inv) : StorageOk s.cfg s.bufs := ⟨h.bufs, h.inputsNoNan⟩

theorem State.Inv.cacheOk {s : State} (h : s.Inv) : CacheOk s.inputVolume
  | .left => h.cacheLeft
  | .right => h.cacheRight

/-- The invariant from its parts: storage, cache, sequencer, port and parser. -/
theorem State.inv_of_parts {s : State} (hstorage : StorageOk s.cfg s.bufs) (hcache : CacheOk s.inputVolume)
    (hidle : s.seq = .idle) (hport : s.operand = .empty) (hparser : s.ParserInv) : s.Inv where
  bufs := hstorage.wf
  inputsNoNan := hstorage.noNan
  cacheLeft := hcache .left
  cacheRight := hcache .right
  idle := hidle
  operand := hport
  status := hparser.status
  data := hparser.data_bit

/-- A command taken from the port in a state of the invariant leaves the invariant: its unit keeps its own part, the other
parts are in its frame. -/
theorem exec_keeps_inv {i : Instr} {s t : State} {p : Payload} {rest : List Command} (heven : s.cfg.n % 2 = 0)
    (hs : s.Inv) (h : exec i (s.accept p rest) = .next t) : t.Inv := by
  have hparser : (s.accept p rest).ParserInv := ⟨hs.parserInv.status, hs.parserInv.data⟩
  cases hi : familyOf i with
  | converter =>
    obtain ⟨⟨r, k, rfl⟩, -⟩ := exec_converterFrame hi h
    exact State.inv_of_parts hs.storageOk hs.cacheOk hs.idle rfl ⟨hparser.status, hparser.data⟩
  | arbiter =>
    have hstorage := exec_arbiter_storageOk (s := s.accept p rest) heven hi h hs.storageOk
    obtain ⟨⟨r, a, bs, ph, d, fs, es, k, rfl⟩, -, -⟩ := exec_arbiterFrame (s := s.accept p rest) heven hi h
    exact State.inv_of_parts hstorage hs.cacheOk hs.idle rfl ⟨hparser.status, hparser.data⟩
  | sequencer =>
    have hcache := exec_sequencer_cacheOk hi h hs.cacheOk
    obtain ⟨⟨r, b, es, q, v, rfl⟩, -, hposition, -, -⟩ := exec_sequencerFrame hi h
    have hidle : q = .idle := hposition.elim (fun he => he.trans hs.idle) fun he => he.2
    exact State.inv_of_parts hs.storageOk hcache hidle rfl ⟨hparser.status, hparser.data⟩
  | parser =>
    have hparser' := exec_parser_parserInv hi h hparser
    obtain ⟨⟨r, m, mb, d, es, q, rfl, -⟩, -, -⟩ := exec_parserFrame hi h
    exact State.inv_of_parts hs.storageOk hs.cacheOk hs.idle rfl hparser'

/-- Settles O13: a command word the decoder refuses only responds, and a command run keeps the invariant. -/
theorem everyStepKeepsInvariant : Obligations.EveryStepKeepsInvariant := by
  intro s t hs h
  obtain ⟨-, rfl⟩ | ⟨c, rest, -, ⟨e, -, rfl⟩ | ⟨i, -, hi⟩⟩ := step_next_cases h
  · exact hs
  · exact State.inv_of_parts hs.storageOk hs.cacheOk hs.idle rfl ⟨hs.parserInv.status, hs.parserInv.data⟩
  · exact exec_keeps_inv (even_of_legal (legal_of_step h)) hs hi

/-- Settles O12: nothing is written, the cache is `INVOL_RESET`, and the parser awaits a status byte. -/
theorem invariantAtReset : Obligations.InvariantAtReset := by
  intro c
  have hreset : volumeByteOk Config.involReset = true := by decide
  exact State.inv_of_parts ⟨reset_bufs_wf c, rfl, rfl⟩ (fun | .left => hreset | .right => hreset) rfl rfl
    ⟨fun h => absurd rfl h, nofun⟩

/-! ## A step that runs a command -/

theorem step_of_decode {s : State} {c : Command} {rest : List Command} {i : Instr} (hlegal : s.cfg.legal = true)
    (hp : s.pending = c :: rest) (hi : decode c.cw = .ok i) : step s = exec i (s.accept c.payload rest) := by
  simp only [step, hlegal, if_true, State.fetch, hp, hi]

/-- Settles O7: `step_of_decode`, with the accepted state written out. -/
theorem stepRunsTheDecodedCommand : Obligations.StepRunsTheDecodedCommand := fun _ _ _ _ => step_of_decode

end Sys2Proof.Machine

/-! SUPPORT. Two laws of the sequencer: a sequence of register writes stops at the first that fails (60_exceptions.md R302),
and muting an input jack and unmuting it restores the cache (42_codec_sequencer.md R240). The obligations O48 and O50. -/

namespace Sys2Proof.Machine

/-! ## Writes up to the first failure -/

theorem issuedWrites_le_length (acks : List (Fin 3)) : issuedWrites acks ≤ acks.length := by
  induction acks with
  | nil => exact Nat.le_refl 0
  | cons a acks ih =>
    rw [issuedWrites, List.length_cons]
    split <;> omega

/-- Every write before the last issued was acknowledged. -/
theorem getElem?_of_lt_issuedWrites {acks : List (Fin 3)} : ∀ {i : Nat}, i + 1 < issuedWrites acks → acks[i]? = some 2 := by
  induction acks with
  | nil => exact fun h => absurd h (Nat.not_lt_zero _)
  | cons a acks ih =>
    intro i h
    rw [issuedWrites] at h
    split at h
    next ha =>
      cases i with
      | zero => exact congrArg some ha
      | succ i => exact ih (Nat.lt_of_succ_lt_succ h)
    next => omega

/-- Where not every write was issued, the last issued was not acknowledged. -/
theorem exists_failed_of_issuedWrites_lt {acks : List (Fin 3)} (h : issuedWrites acks < acks.length) :
    ∃ a, a ≠ 2 ∧ 0 < issuedWrites acks ∧ acks[issuedWrites acks - 1]? = some a := by
  induction acks with
  | nil => exact absurd h (Nat.not_lt_zero _)
  | cons a acks ih =>
    rw [issuedWrites] at h ⊢
    split at h
    next ha =>
      obtain ⟨b, hb, hpos, hlast⟩ := ih (Nat.lt_of_succ_lt_succ h)
      refine ⟨b, hb, by rw [if_pos ha]; omega, ?_⟩
      rw [if_pos ha, Nat.add_sub_cancel, ← hlast]
      obtain ⟨k, hk⟩ := Nat.exists_eq_add_of_lt hpos
      simp [hk]
    next ha =>
      rw [if_neg ha]
      exact ⟨a, ha, Nat.one_pos, rfl⟩

/-- Settles O48: `State.wrAll_eq` for the writes, the three lemmas on `issuedWrites` for their answers. -/
theorem noWriteAfterAFailure : Obligations.NoWriteAfterAFailure := by
  intro ws s acks n
  have hlen : acks.length = ws.length := length_nextAcks _ _
  refine ⟨?_, ?_, hlen ▸ issuedWrites_le_length acks, fun i => getElem?_of_lt_issuedWrites,
    fun h => exists_failed_of_issuedWrites_lt (hlen ▸ h)⟩
  · rw [State.wrAll_eq, writeEvents, List.take_zipWith]
  · rw [State.wrAll_eq, decide_eq_true_iff, reliableFor, List.eq_replicate_iff]
    exact and_iff_right hlen

/-! ## Mute and unmute -/

theorem PerSide.eq_of_sideOf {α : Type} {p q : PerSide α} (h : ∀ c, sideOf p c = sideOf q c) : p = q := by
  obtain ⟨pl, pr⟩ := p
  obtain ⟨ql, qr⟩ := q
  exact congrArg₂ PerSide.mk (h .left) (h .right)

/-- The cache after CODEC.SET Mute on an input jack, bit by bit; whatever the bus answers. -/
theorem exec_mute_cache {j : Jack} (hj : j = .microphone ∨ j = .defaultIn) {v : Word} (hv : v = 0 ∨ v = 1) (h : Channel)
    (s : State) :
    ∃ t, exec (.codecSet .mute j h) { s with operand := .word v } = .next t ∧
      ∀ c k, (sideOf t.inputVolume c).getLsbD k =
        if c ∈ chans h ∧ k = 7 then v.getLsbD 0 else (sideOf s.inputVolume c).getLsbD k := by
  obtain ⟨vol, hbits, hexec⟩ := setMute j h { s with operand := .word v } v hj rfl hv
  exact ⟨_, hexec, hbits⟩

/-- Settles O50: both commands change bit 7 of the addressed channels only, and the second gives it its old value. -/
theorem muteRoundTripRestoresTheCache : Obligations.MuteRoundTripRestoresTheCache := by
  intro j h s hj hunmuted
  obtain ⟨t, ht, hmuted⟩ := exec_mute_cache hj (v := 1) (.inr rfl) h s
  obtain ⟨u, hu, hcache⟩ := exec_mute_cache hj (v := 0) (.inl rfl) h t
  refine ⟨t, u, ht, fun c hc => (hmuted c 7).trans (if_pos ⟨hc, rfl⟩), hu, PerSide.eq_of_sideOf fun c => ?_⟩
  apply BitVec.eq_of_getLsbD_eq
  intro k _
  rw [hcache, hmuted]
  by_cases hk : c ∈ chans h ∧ k = 7
  · obtain ⟨hc, rfl⟩ := hk
    rw [if_pos ⟨hc, rfl⟩, hunmuted c hc]
    rfl
  · rw [if_neg hk, if_neg hk]

end Sys2Proof.Machine

/-! SUPPORT. Whole messages of the byte path (43_midi.md R252 to R254) and its independence of the arbiter (60_exceptions.md
R325). The obligations O53 and O59. -/

namespace Sys2Proof.Machine

/-! ## One message -/

/-- What a message that began with an accepted status byte is forwarded as. -/
theorem sinkCallOf_of_accepted {st : Byte} (hst : st.toNat / 16 = 0x8 ∨ st.toNat / 16 = 0x9 ∨ st.toNat / 16 = 0xB)
    (d1 d2 : Byte) :
    sinkCallOf st d1 d2 = some ⟨3, 0,
      if st.toNat / 16 = 0x9 ∧ d2 = 0 then 0x80 else BitVec.ofNat 8 (st.toNat / 16 * 16),
      BitVec.ofNat 8 (st.toNat % 16), d1, d2⟩ := by
  rw [sinkCallOf_eq]
  obtain h | h | h := hst
  · simp [h]
  · by_cases hvelocity : d2 = 0#8 <;> simp [h, hvelocity]
  · simp [h]

/-- What a status byte that breaks a message adds to the history. -/
def State.desyncs (s : State) (b : Byte) : List Event := if s.mstate = .awaitingStatus then [] else [.desync b]

theorem State.historyAfterStatus_eq (s : State) (b : Byte) : s.historyAfterStatus b = s.history ++ s.desyncs b := by
  rw [State.historyAfterStatus, State.desyncs]
  split
  · exact (List.append_nil _).symm
  · rfl

theorem State.sink_not_mem_desyncs (s : State) (b : Byte) (c : SinkCall) : Event.sink c ∉ s.desyncs b := by
  rw [State.desyncs]
  split <;> simp

/-- The parser on an accepted status byte and two data bytes: it ends where it dispatches the message. -/
theorem State.midiStep_message {st d1 d2 : Byte} (hst : acceptsStatus st = true) (h1 : d1.toNat < 128) (h2 : d2.toNat < 128)
    (s : State) :
    ((s.midiStep st).midiStep d1).midiStep d2 =
      { ({ s with
            history := s.historyAfterStatus st, mstate := .awaitingData2, mbuf := ⟨st, d1, s.mbuf.b2⟩ } : State).dispatch
          st d1 d2 with mstate := .awaitingStatus, mbuf := ⟨st, d1, d2⟩ } := by
  rw [State.midiStep_of_accepted hst, State.midiStep_data_awaitingData1 h1 rfl, State.midiStep_data_awaitingData2 h2 rfl]

/-- Settles O53: `State.midiStep_message`, with the call of `sinkCallOf_of_accepted`. -/
theorem threeBytesMakeOneMessage : Obligations.ThreeBytesMakeOneMessage := by
  intro st d1 d2 s hs hdsp hst h1 h2
  have hports : (((((s.midiStep st).respond .ok .empty).midiStep d1).respond .ok .empty).midiStep d2).respond .ok .empty
      = (((s.midiStep st).midiStep d1).midiStep d2).respond .ok .empty := by
    simp only [State.midiStep_respond]
    rfl
  refine ⟨_, _, _, s.desyncs st, exec_midiByte_of_empty hs st, exec_midiByte_of_empty rfl d1, exec_midiByte_of_empty rfl d2,
    ?_, s.sink_not_mem_desyncs st, ?_⟩
  all_goals rw [hports, State.midiStep_message ((acceptsStatus_iff st).2 hst) h1 h2]
  · rfl
  · rw [State.dispatch_of_dsp (by exact hdsp), sinkCallOf_of_accepted hst, ← State.historyAfterStatus_eq]
    rfl

/-! ## A byte beside a PIPE command -/

/-- With no DSP a byte does the same to every state with the same parser and the same configuration. -/
theorem State.midiStep_noDsp_congr {s t : State} (hdsp : s.cfg.dspBound = false) (hcfg : t.cfg = s.cfg)
    (hm : t.mstate = s.mstate) (hb : t.mbuf = s.mbuf) (b : Byte) : ∃ m mb es,
      s.midiStep b = { s with mstate := m, mbuf := mb, history := s.history ++ es } ∧
      t.midiStep b = { t with mstate := m, mbuf := mb, history := t.history ++ es } := by
  have hdsp' : t.cfg.dspBound = false := hcfg ▸ hdsp
  obtain hlow | hhigh := Nat.lt_or_ge b.toNat 128
  · cases hms : s.mstate with
    | awaitingStatus =>
      refine ⟨s.mstate, s.mbuf, [], ?_, ?_⟩
      · rw [State.midiStep_data_awaitingStatus hlow hms, List.append_nil]
      · rw [State.midiStep_data_awaitingStatus hlow (hm.trans hms), List.append_nil, ← hm, ← hb]
    | awaitingData1 =>
      refine ⟨.awaitingData2, { s.mbuf with b1 := b }, [], ?_, ?_⟩
      · rw [State.midiStep_data_awaitingData1 hlow hms, List.append_nil]
      · rw [State.midiStep_data_awaitingData1 hlow (hm.trans hms), List.append_nil, hb]
    | awaitingData2 =>
      refine ⟨.awaitingStatus, { s.mbuf with b2 := b }, [], ?_, ?_⟩
      · rw [State.midiStep_data_awaitingData2 hlow hms, State.dispatch_noDsp hdsp, List.append_nil]
      · rw [State.midiStep_data_awaitingData2 hlow (hm.trans hms), State.dispatch_noDsp hdsp', List.append_nil, hb]
  · have hdesync : t.desyncs b = s.desyncs b := by rw [State.desyncs, hm, State.desyncs]
    by_cases ha : acceptsStatus b = true
    · refine ⟨.awaitingData1, { s.mbuf with b0 := b }, s.desyncs b, ?_, ?_⟩
      · rw [State.midiStep_of_accepted ha, State.historyAfterStatus_eq]
      · rw [State.midiStep_of_accepted ha, State.historyAfterStatus_eq, hdesync, hb]
    · refine ⟨.awaitingStatus, s.mbuf, s.desyncs b, ?_, ?_⟩
      · rw [State.midiStep_of_unaccepted hhigh ha, State.historyAfterStatus_eq]
      · rw [State.midiStep_of_unaccepted hhigh ha, State.historyAfterStatus_eq, hdesync, ← hb]

/-- `s` with another parser's state, history and last result. -/
def State.withParser (m : MState) (mb : MidiBuf) (hist : List Event) (r : Option Response) (s : State) : State :=
  { s with mstate := m, mbuf := mb, history := hist, result := r }

/-- The command's body `f` neither reads nor changes the parser and the history it finds: it appends to that history. -/
def State.IgnoresParser (s : State) (f : State → State) : Prop :=
  (f s).operand = .empty ∧ ∃ es, ∀ m mb hist r, f (s.withParser m mb hist r) =
    { f s with mstate := m, mbuf := mb, history := hist ++ es }

theorem State.illegal_ignoresParser (s : State) : s.IgnoresParser State.illegal :=
  ⟨rfl, [], fun m mb hist r => by rw [List.append_nil]; rfl⟩

theorem State.recv_ignoresParser (len : Word) (ws : List Word) (s : State) : s.IgnoresParser (State.recv len ws) := by
  by_cases hlen : len.toNat = s.cfg.n
  · have hrecv (u : State) (hu : len.toNat = u.cfg.n) :
        u.recv len ws = ((u.checkOrder .awaitIn).setPhase .awaitOut).recvBlock ws := if_pos hu
    refine ⟨by rw [hrecv s hlen]; rfl, [], fun m mb hist r => ?_⟩
    rw [hrecv s hlen, hrecv (s.withParser m mb hist r) hlen, List.append_nil]
    simp only [State.checkOrder_setPhase_eq, State.recvBlock, State.noteReads_eq]
    rfl
  · refine ⟨by rw [State.recv_of_length_ne hlen], [.sizeMismatch .IN len], fun m mb hist r => ?_⟩
    rw [State.recv_of_length_ne hlen, State.recv_of_length_ne (s := s.withParser m mb hist r) hlen]
    rfl

/-- In bypass a request reads the input buffers alone and, producing a block, makes no call. -/
theorem State.req_ignoresParser {s : State} (hdsp : s.cfg.dspBound = false) (len : Word) :
    s.IgnoresParser (State.req len) := by
  by_cases hlen : len.toNat = s.cfg.n
  · have hreq (u : State) (hu : len.toNat = u.cfg.n) :
        u.req len = ((u.checkOrder .awaitOut).setPhase .awaitIn).reqBlock := if_pos hu
    have hbypass (u : State) (hu : u.cfg.dspBound = false) : u.process = u.bypassCopy := by
      rw [State.process, hu, if_neg Bool.false_ne_true]
    refine ⟨by rw [hreq s hlen]; rfl, [], fun m mb hist r => ?_⟩
    rw [hreq s hlen, hreq (s.withParser m mb hist r) hlen, List.append_nil]
    simp only [State.checkOrder_setPhase_eq, State.reqBlock]
    rw [hbypass _ (by exact hdsp), hbypass _ (by exact hdsp)]
    simp only [State.bypassCopy, State.convertOut, State.noteReads_eq]
    rfl
  · refine ⟨by rw [State.req_of_length_ne hlen], [.sizeMismatch .OUT len], fun m mb hist r => ?_⟩
    rw [State.req_of_length_ne hlen, State.req_of_length_ne (s := s.withParser m mb hist r) hlen]
    rfl

/-- The command `i` run in `s` does the same, and appends the same calls, beside every other parser and history. -/
def State.RunsBesideParser (s : State) (i : Instr) : Prop :=
  ∃ t es, exec i s = .next t ∧ t.operand = .empty ∧
    ∀ m mb hist r, exec i (s.withParser m mb hist r) = .next { t with mstate := m, mbuf := mb, history := hist ++ es }

theorem State.IgnoresParser.runsBesideParser {s : State} {i : Instr} {f : State → State} (hf : s.IgnoresParser f)
    (hexec : ∀ m mb hist r, exec i (s.withParser m mb hist r) = .next (f (s.withParser m mb hist r))) :
    s.RunsBesideParser i := by
  obtain ⟨hport, es, hes⟩ := hf
  exact ⟨f s, es, hexec s.mstate s.mbuf s.history s.result, hport, fun m mb hist r => by rw [hexec, hes]⟩

/-- With no DSP a PIPE command, on any payload, does the same beside every parser. -/
theorem State.pipe_runsBesideParser {s : State} {i : Instr} (hi : i = .pipeRecv ∨ i = .pipeReq)
    (hdsp : s.cfg.dspBound = false) : s.RunsBesideParser i := by
  cases hshape : i.wellFormed s.cfg s.operand with
  | false => exact s.illegal_ignoresParser.runsBesideParser fun _ _ _ _ => exec_of_not_wellFormed hshape
  | true =>
    obtain rfl | rfl := hi
    · obtain ⟨len, ws, hs, hws⟩ := Payload.exists_of_isLenBlock hshape
      exact (State.recv_ignoresParser len ws s).runsBesideParser fun _ _ _ _ => exec_pipeRecv_of_lenBlock hs hws
    · obtain ⟨len, hs⟩ := Payload.exists_of_isWord hshape
      exact (State.req_ignoresParser hdsp len).runsBesideParser fun _ _ _ _ => exec_pipeReq_of_word hs

/-- Settles O59: the byte by `State.midiStep_noDsp_congr`, the PIPE command by `State.pipe_runsBesideParser`; each appends
the same calls whichever comes first. -/
theorem parserAndArbiterCommute : Obligations.ParserAndArbiterCommute := by
  intro s b i p hi hdsp
  obtain ⟨u, es, hu, hport, hbeside⟩ := State.pipe_runsBesideParser (s := { s with operand := p }) hi hdsp
  have hself : u = { u with mstate := s.mstate, mbuf := s.mbuf, history := s.history ++ es } :=
    Host.Outcome.next.inj (hu.symm.trans (hbeside s.mstate s.mbuf s.history s.result))
  have hcfg : u.cfg = s.cfg := (exec_cfg i hu :)
  have hmstate : u.mstate = s.mstate := (congrArg State.mstate hself :)
  have hmbuf : u.mbuf = s.mbuf := (congrArg State.mbuf hself :)
  have hhistory : u.history = s.history ++ es := congrArg State.history hself
  obtain ⟨m, mb, es', hfirst, hsecond⟩ := State.midiStep_noDsp_congr (s := { s with operand := .empty })
    (t := { u with operand := .empty }) hdsp hcfg hmstate hmbuf b
  refine ⟨_, { u with mstate := m, mbuf := mb, history := s.history ++ es' ++ es }, u, _,
    exec_midiByte_of_empty rfl b, ?_, hu, exec_midiByte_of_empty rfl b, ?_, ?_⟩
  · rw [hfirst]
    exact hbeside m mb _ _
  · rw [hsecond, hport]
    rfl
  · rw [hsecond]
    show (u.history ++ es').Perm (s.history ++ es' ++ es)
    rw [hhistory, List.append_assoc, List.append_assoc]
    exact List.perm_append_comm.append_left _

end Sys2Proof.Machine

/-! SUPPORT. Runs of the arbiter: a dropped block in bypass (41_arbiter.md R159), and strict alternation from construction
(R160, 70_reset_and_hazards.md R350). The obligations O35 and O36. -/

namespace Sys2Proof.Machine

/-! ## Blocks without NaN -/

theorem fromFloats_of_no_nan {xs : List F32} : ∀ (k : Nat), xs.countP f32IsNan = 0 →
    fromFloats xs k = xs.map fromFloatNum := by
  induction xs with
  | nil => exact fun _ _ => rfl
  | cons x xs ih =>
    intro k h
    obtain ⟨hx, hxs⟩ : f32IsNan x = false ∧ xs.countP f32IsNan = 0 := by
      simpa [List.countP_eq_zero] using h
    rw [fromFloats, List.map_cons, ih _ hxs, fromFloat_of_not_nan hx]

/-- A block without NaN takes no draw, so it does not read the draw counter. -/
theorem interleaveWords_of_no_nan {l r : List F32} (hlen : l.length = r.length) (hl : l.countP f32IsNan = 0)
    (hr : r.countP f32IsNan = 0) (k k' : Nat) : interleaveWords l r k = interleaveWords l r k' := by
  have hnone : (interleave l r).countP f32IsNan = 0 := by rw [countP_interleave hlen, hl, hr]
  rw [interleaveWords, interleaveWords, fromFloats_of_no_nan k hnone, fromFloats_of_no_nan k' hnone]

theorem Buffer.mem_of_read {b : Buffer} {i : Nat} {w : Word} (h : Buffer.read b i = some w) : (i, w) ∈ b := by
  induction b with
  | nil => cases h
  | cons e rest ih =>
    obtain ⟨k, v⟩ := e
    rw [Buffer.read] at h
    split at h
    next hk => rw [hk, Option.some.inj h]; exact List.mem_cons_self
    next => exact List.mem_cons_of_mem _ (ih h)

/-- Written elements of a buffer without NaN read as no NaN. -/
theorem State.countP_bufVals_of_nanFree {s : State} {b : BufId} {n : Nat} (hfree : nanFree (s.buf b) = true)
    (hw : ∀ i, i < n → s.written b i = true) : (s.bufVals b n).countP f32IsNan = 0 := by
  rw [List.countP_eq_zero]
  intro x hx
  simp only [State.bufVals, List.mem_map, List.mem_range] at hx
  obtain ⟨i, hi, rfl⟩ := hx
  obtain ⟨w, hread⟩ := Option.isSome_iff_exists.1 (hw i hi)
  simp only [nanFree, List.all_eq_true, Bool.not_eq_true'] at hfree
  rw [State.bufVal, hread, hfree _ (Buffer.mem_of_read hread)]
  exact Bool.false_ne_true

/-! ## In bypass a request repeats the input buffers -/

/-- With no DSP the answer to a request depends on the two input buffers alone, if they are written and hold no NaN. -/
theorem State.outBlock_congr {s t : State} (hcfg : t.cfg = s.cfg) (hdsp : s.cfg.dspBound = false)
    (hl : t.buf .dspInL = s.buf .dspInL) (hr : t.buf .dspInR = s.buf .dspInR)
    (hfree : nanFree (s.buf .dspInL) = true ∧ nanFree (s.buf .dspInR) = true)
    (hw : ∀ i, i < s.cfg.frames → s.written .dspInL i = true ∧ s.written .dspInR i = true) : t.outBlock = s.outBlock := by
  have hleft : s.outLeft = s.bufVals .dspInL s.cfg.frames := by simp [State.outLeft, hdsp]
  have hright : s.outRight = s.bufVals .dspInR s.cfg.frames := by simp [State.outRight, hdsp]
  have hleft' : t.outLeft = s.outLeft := by simp [State.outLeft, hdsp, hcfg, State.bufVals_congr hl]
  have hright' : t.outRight = s.outRight := by simp [State.outRight, hdsp, hcfg, State.bufVals_congr hr]
  rw [State.outBlock, State.outBlock, hleft', hright']
  apply interleaveWords_of_no_nan s.length_outLeft_eq
  · rw [hleft]
    exact State.countP_bufVals_of_nanFree hfree.1 fun i hi => (hw i hi).1
  · rw [hright]
    exact State.countP_bufVals_of_nanFree hfree.2 fun i hi => (hw i hi).2

/-- Settles O35: neither a produced block nor a dropped one writes an input buffer, so `State.outBlock_congr` applies. -/
theorem droppedBlockRepeatsTheOutput : Obligations.DroppedBlockRepeatsTheOutput := by
  intro s len len' ws hdsp heven hlen hlen' hws hfreeL hfreeR hw
  let s0 : State := { s with operand := .word len }
  obtain ⟨-, -, -, hother⟩ := s0.get_reqBufs
  have hreq := State.req_of_length (s := s0) heven hlen
  let t1 : State := { s0.req len with operand := .lenBlock len' ws }
  have hcfg1 : t1.cfg = s.cfg := State.req_cfg len s0
  have hrecv := State.recv_of_length_ne (s := t1) (hcfg1 ▸ hlen') ws
  let t2 : State := { t1.recv len' ws with operand := .word len }
  have hcfg2 : t2.cfg = s.cfg := (State.recv_cfg len' ws t1).trans hcfg1
  have hreq' := State.req_of_length (s := t2) (hcfg2 ▸ heven) (hcfg2 ▸ hlen)
  have hbufs : t2.bufs = s0.reqBufs := (congrArg State.bufs hrecv).trans (congrArg State.bufs hreq)
  have hblock : t2.outBlock = s0.outBlock :=
    State.outBlock_congr hcfg2 hdsp ((congrArg (Buffers.get · .dspInL) hbufs).trans (hother .dspInL nofun nofun nofun))
      ((congrArg (Buffers.get · .dspInR) hbufs).trans (hother .dspInR nofun nofun nofun)) ⟨hfreeL, hfreeR⟩ hw
  refine ⟨s0.req len, t1.recv len' ws, t2.req len, exec_pipeReq_of_word rfl, exec_pipeRecv_of_lenBlock rfl hws,
    exec_pipeReq_of_word rfl, ?_, ?_⟩
  · rw [hreq', hblock, hreq]
  · rw [hreq']
    show (!t2.activeIsA) = s.activeIsA
    rw [show t2.activeIsA = !s.activeIsA from (congrArg State.activeIsA hrecv).trans (congrArg State.activeIsA hreq),
      Bool.not_not]

/-! ## Strict alternation -/

/-- A delivered block is written in both input buffers. -/
theorem State.inputsWritten_of_recvBufs {s t : State} {ws : List Word} (hcfg : t.cfg = s.cfg)
    (hbufs : t.bufs = s.recvBufs ws) : t.inputsWritten = true := by
  obtain ⟨-, hleft, hright, -⟩ := s.get_recvBufs ws
  rw [← hbufs] at hleft hright
  have hwritten {b : BufId} {xs : List Word} (hb : t.bufs.get b = Buffer.writeFrom (s.bufs.get b) 0 xs)
      (hxs : xs.length = s.cfg.frames) (i : Nat) (hi : i < t.cfg.frames) : t.written b i = true := by
    have hi' : i < xs.length := by rwa [hxs, ← hcfg]
    rw [State.written, State.buf, hb, Buffer.read_writeFrom_zero, if_pos hi', List.getElem?_eq_getElem hi']
    rfl
  rw [State.inputsWritten_iff]
  exact ⟨hwritten hleft (length_deinterleave _ _ _), hwritten hright (length_deinterleave _ _ _)⟩

/-- A good PIPE.RECV and a good PIPE.REQ for each block, in turn. -/
def cycleCommands (c : Config) (blocks : List (List Word)) : List Command :=
  blocks.flatMap fun ws =>
    [Instr.pipeRecv.command (.lenBlock (BitVec.ofNat 32 c.n) ws), Instr.pipeReq.command (.word (BitVec.ofNat 32 c.n))]

/-- Between two cycles: no fault, and the next input block awaited. -/
structure State.BetweenCycles (c : Config) (s : State) : Prop where
  cfg : s.cfg = c
  clean : s.clean
  phase : s.phase = .awaitIn

/-- One cycle: two steps, after which the other slot is selected. -/
theorem step_cycle {c : Config} {s : State} {ws : List Word} {rest : List Command} (hlegal : c.legal = true)
    (hn : c.n < 2 ^ 32) (hws : ws.length = c.n) (hs : s.BetweenCycles c)
    (hp : s.pending = Instr.pipeRecv.command (.lenBlock (BitVec.ofNat 32 c.n) ws) ::
      Instr.pipeReq.command (.word (BitVec.ofNat 32 c.n)) :: rest) :
    ∃ t u, step s = .next t ∧ step t = .next u ∧ u.BetweenCycles c ∧ u.activeIsA = (!s.activeIsA) ∧ u.pending = rest := by
  obtain ⟨rfl, hclean, hphase⟩ := hs
  have heven := even_of_legal hlegal
  let len : Word := BitVec.ofNat 32 s.cfg.n
  have hlen : len.toNat = s.cfg.n := by rw [BitVec.toNat_ofNat, Nat.mod_eq_of_lt hn]
  let s0 : State := s.accept (.lenBlock len ws) (Instr.pipeReq.command (.word len) :: rest)
  let t : State := s0.recv len ws
  have hrecv := State.recv_of_length (s := s0) heven hws hlen
  have hcfg : t.cfg = s.cfg := State.recv_cfg len ws s0
  have hpending : t.pending = Instr.pipeReq.command (.word len) :: rest := congrArg State.pending hrecv
  have hclean' : t.clean := (congrArg State.faults hrecv).trans ((if_pos hphase).trans hclean)
  have hselector : t.activeIsA = s.activeIsA := (congrArg State.activeIsA hrecv :)
  let t0 : State := t.accept (.word len) rest
  have hwritten : t0.inputsWritten = true := State.inputsWritten_of_recvBufs (s := s0) hcfg (congrArg State.bufs hrecv)
  have hreq := State.req_of_length (s := t0) (hcfg ▸ heven) (hlen.trans (congrArg Config.n hcfg).symm)
  refine ⟨t, t0.req len, ?_, ?_, ⟨?_, ?_, State.req_phase len t0⟩, ?_, congrArg State.pending hreq⟩
  · exact (step_of_decode hlegal hp (decode_encode _)).trans (exec_pipeRecv_of_lenBlock rfl (hws.trans hlen.symm))
  · exact (step_of_decode (hcfg ▸ hlegal) hpending (decode_encode _)).trans (exec_pipeReq_of_word rfl)
  · exact (State.req_cfg len t0).trans hcfg
  · exact (congrArg State.faults hreq).trans ((if_pos hwritten).trans ((if_pos (s0.recv_phase len ws)).trans hclean'))
  · exact (congrArg State.activeIsA hreq).trans (congrArg not hselector)

theorem core_run_succ {s t : State} (h : step s = .next t) (k : Nat) :
    Sys2Proof.core.run (k + 1) s = Sys2Proof.core.run k t := by
  have hcore : Sys2Proof.core.step s = .next t := h
  simp only [Host.Core.run, hcore]

theorem decide_succ_mod_two (n : Nat) : decide ((n + 1) % 2 = 0) = !decide (n % 2 = 0) := by
  rw [← decide_not, decide_eq_decide]
  omega

/-- Cycle after cycle. -/
theorem run_cycles {c : Config} (hlegal : c.legal = true) (hn : c.n < 2 ^ 32) (blocks : List (List Word)) :
    ∀ {s : State}, (∀ ws ∈ blocks, ws.length = c.n) → s.BetweenCycles c → s.pending = cycleCommands c blocks →
      ∃ t, Sys2Proof.core.run (cycleCommands c blocks).length s = .next t ∧ t.BetweenCycles c ∧
        t.activeIsA = (s.activeIsA == decide (blocks.length % 2 = 0)) ∧ t.pending = [] := by
  induction blocks with
  | nil => exact fun {s} _ hs hp => ⟨s, rfl, hs, (beq_true _).symm, hp⟩
  | cons ws blocks ih =>
    intro s hlens hs hp
    obtain ⟨hws, hlens⟩ := List.forall_mem_cons.1 hlens
    obtain ⟨t, u, ht, hu, hbetween, hselector, hrest⟩ := step_cycle hlegal hn hws hs hp
    obtain ⟨v, hv, hend, hselector', hdone⟩ := ih hlens hbetween hrest
    refine ⟨v, ?_, hend, ?_, hdone⟩
    · calc Sys2Proof.core.run (cycleCommands c (ws :: blocks)).length s
        _ = Sys2Proof.core.run ((cycleCommands c blocks).length + 1) t := core_run_succ ht _
        _ = Sys2Proof.core.run (cycleCommands c blocks).length u := core_run_succ hu _
        _ = .next v := hv
    · rw [hselector', hselector, List.length_cons, decide_succ_mod_two]
      cases s.activeIsA <;> cases decide (blocks.length % 2 = 0) <;> rfl

/-- Settles O36: `run_cycles` from construction, where slot A is selected. -/
theorem strictAlternationVisitsSlotsInTurn : Obligations.StrictAlternationVisitsSlotsInTurn := by
  intro c blocks hlegal hn hlens
  obtain ⟨t, hrun, hend, hselector, hdone⟩ := run_cycles hlegal hn blocks
    (s := (State.resetWith c).issue (cycleCommands c blocks)) hlens ⟨rfl, rfl, rfl⟩ rfl
  exact ⟨t, hrun, hend.clean, hselector.trans (Bool.true_beq _), hend.phase, hdone⟩

end Sys2Proof.Machine
